-- ==== Sys2Proof/Word.lean ====
section
/-! DEFINITION. The words of the block: bytes, byte sequences, the checksum word, the 24-bit message id
(spec/00_scope.md R8, R9; spec/10_state.md R29, R30). -/

namespace Sys2Proof

/-- A byte: an unsigned integer 0..255 (R9). -/
abbrev Byte := BitVec 8

/-- A byte sequence `B`, element 0 first (R9); every buffer of the block is one (R50). -/
abbrev Bytes := List Byte

/-- The 16-bit checksum word (R29, R170; parameter `CRC_W` of R6). -/
abbrev Crc := BitVec 16

/-- A message id: 24 bits; a v1 id is zero-extended to it (R30, R92). -/
abbrev MsgId := BitVec 24

/-- A field name, kept as its 8-bit characters (R30, R83). Only equality of names is ever used (R133). -/
abbrev FieldName := Bytes

end Sys2Proof
end

