-- ==== Sys2Proof/Machine/Bytes.lean ====
section
/-! DEFINITION. Byte sequences and byte order (spec/00_scope.md R8, R9, R10; spec/20_memory.md R52): every
multi-byte quantity is little-endian, and this is the one file that says so. -/

namespace Sys2Proof

/-- `B[i]` (R9). Every use has established `i < |B|`; the default is never read then. -/
def byteAt (B : Bytes) (i : Nat) : Byte := B.getD i 0

/-- `B[i..j)` (R9). -/
def slice (B : Bytes) (i j : Nat) : Bytes := (B.drop i).take (j - i)

/-- `zeros(n)` (R9). -/
def zeros (n : Nat) : Bytes := List.replicate n 0

/-- `LE(n, v)`: `n` bytes, least significant first; element `k` is `(v >> 8k) AND 0xFF` (R9). -/
def le : Nat → Nat → Bytes
  | 0, _ => []
  | n + 1, v => BitVec.ofNat 8 v :: le n (v / 256)

/-- `ULE(B)`: the sum of `B[k] * 2^(8k)` (R9). -/
def ule : Bytes → Nat
  | [] => 0
  | b :: bs => b.toNat + 256 * ule bs

/-- `sext_N(v)`: the two's complement reading of an unsigned `v < 2^N` (R8, R131). -/
def sext (n v : Nat) : Int := if v < 2 ^ (n - 1) then (v : Int) else (v : Int) - 2 ^ n

/-- `SLE(B)` (R9). -/
def sle (B : Bytes) : Int := sext (8 * B.length) (ule B)

/-- `MemWrite(buf, a, |S|, S)`: replaces `buf[a..a+|S|)` by `S` (R10). -/
def memWrite (buf : Bytes) (a : Nat) (S : Bytes) : Bytes := buf.take a ++ S ++ buf.drop (a + S.length)

end Sys2Proof
end

