-- ==== Sys2Proof/Syntax.lean ====
section
/-! DEFINITION. The instructions of the block, WHOLE: the 14 host commands, the 22 token microcodelets and the
2 frame formats of spec/opcode_table.json (spec/30_encoding.md R81, R85, R90, R91, R115), with the records and
values that stand in them as operands (spec/00_scope.md R11; spec/10_state.md R30, R32, R34). -/

namespace Sys2Proof

/-! ## Wire-format tokens -/

/-- The eleven type codes (R85); upper and lower case are different codes (R82). -/
inductive TypeCode where
  | f | d | b | B | h | H | i | I | q | Q | c
  deriving DecidableEq, Repr

/-- One token `(count, code)` of a wire-format string (R110). -/
structure Token where
  count : Nat
  code : TypeCode
  deriving DecidableEq, Repr

/-- Which way a token program runs; fixed by the command that runs the string, by no bit of it (R115). -/
inductive Dir where
  | unpack | pack
  deriving DecidableEq, Repr

/-! ## Typed values -/

/-- A scalar value (R11). Floats are bit patterns (R132); integers are unbounded, a type code sets the range (R85). -/
inductive Scalar where
  | int (z : Int)
  | f32 (w : BitVec 32)
  | f64 (w : BitVec 64)
  | char (b : Byte)
  deriving DecidableEq, Repr

/-- A typed value of the Wire Codec (R11). -/
inductive Value where
  | scalar (x : Scalar)
  | str (S : Bytes)
  | bytes (S : Bytes)
  | arr (L : List Scalar)
  deriving DecidableEq, Repr

/-- A mapping: `(field name, value)` pairs in token order (R11); that the names are distinct is `Mapping.wf`. -/
abbrev Mapping := List (FieldName × Value)

/-! ## Records -/

/-- A message descriptor (R30). `name` is read by no rule. -/
structure Descriptor where
  id : MsgId
  name : Bytes
  wireFormat : Bytes
  fields : List FieldName
  maxPayloadLen : Nat
  crcExtra : Byte
  deriving DecidableEq, Repr

/-- The 6-byte tag of a signature block, in wire order (R32, R55). -/
structure Tag where
  t0 : Byte
  t1 : Byte
  t2 : Byte
  t3 : Byte
  t4 : Byte
  t5 : Byte
  deriving DecidableEq, Repr, Inhabited

/-- Signature block record (R32): `link_id`, 48-bit `timestamp`, `tag`. -/
structure SigBlock where
  linkId : Byte
  timestamp : BitVec 48
  tag : Tag
  deriving DecidableEq, Repr

/-- The signing operands of an encode request (R34): the timestamp is a natural, reduced modulo `2^48` (R191). -/
structure Sign where
  key : Bytes
  linkId : Byte
  timestamp : Nat
  deriving DecidableEq, Repr

/-- Encode request, the operand of ENCODE (R34). -/
structure EncodeRequest where
  isV2 : Bool
  sequence : Byte
  systemId : Byte
  componentId : Byte
  incompatFlags : Byte
  compatFlags : Byte
  messageId : MsgId
  payload : Mapping
  sign : Option Sign
  deriving DecidableEq, Repr

/-- The selector of RDCNT, in the order of R251: 0 TRASH, 1 CRCERR, 2 UNKMSG, 3 PARSEERR, 4 PKTS. -/
inductive Counter where
  | trash | crcerr | unkmsg | parseerr | pkts
  deriving DecidableEq, Repr

/-- The fields of a v1 frame (R90), the marker `0xFE` apart. -/
structure FrameV1 where
  len : Byte
  seq : Byte
  sys : Byte
  comp : Byte
  msgid : Byte
  payload : Bytes
  crc : Crc
  deriving DecidableEq, Repr

/-- The fields of a v2 frame (R91), the marker `0xFD` apart; `sig` is the signature block (R96), if there is one. -/
structure FrameV2 where
  len : Byte
  incompat : Byte
  compat : Byte
  seq : Byte
  sys : Byte
  comp : Byte
  msgid : MsgId
  payload : Bytes
  crc : Crc
  sig : Option SigBlock
  deriving DecidableEq, Repr

/-! ## The instructions -/

/-- One constructor per row of spec/opcode_table.json: host commands (format CMD, R81), token microcodelets
(format TOK, R85; the argument is the token's count, R84) and frame formats (format FRAME, R90, R91). -/
inductive Instr where
  -- format CMD
  | reset
  | rdcnt (k : Counter)
  | crcInit
  | crcStep (d : Byte)
  | crcSeed (seed : Byte)
  | crcBuf (B : Bytes)
  | crcRd
  | crcFrame (B : Bytes) (seed : Byte)
  | fmtTok (fmt : Bytes)
  | unpack (buf : Bytes) (fmt : Bytes) (names : List FieldName)
  | pack (map : Mapping) (fmt : Bytes) (names : List FieldName) (buf : Bytes) (off : Nat)
  | parse (chunk : Bytes)
  | encode (req : EncodeRequest)
  | buildDefault (id : MsgId)
  -- format TOK, direction unpack
  | uf (cnt : Nat)
  | ud (cnt : Nat)
  | ub (cnt : Nat)
  | uB (cnt : Nat)
  | uh (cnt : Nat)
  | uH (cnt : Nat)
  | ui (cnt : Nat)
  | uI (cnt : Nat)
  | uq (cnt : Nat)
  | uQ (cnt : Nat)
  | uc (cnt : Nat)
  -- format TOK, direction pack
  | pf (cnt : Nat)
  | pd (cnt : Nat)
  | pb (cnt : Nat)
  | pB (cnt : Nat)
  | ph (cnt : Nat)
  | pH (cnt : Nat)
  | pi (cnt : Nat)
  | pI (cnt : Nat)
  | pq (cnt : Nat)
  | pQ (cnt : Nat)
  | pc (cnt : Nat)
  -- format FRAME
  | frameV1 (fr : FrameV1)
  | frameV2 (fr : FrameV2)
  deriving DecidableEq, Repr

/-! ## What the decoders read -/

/-- The typed operands that travel with a command code (R80), one slot for each operand the table names
(spec/opcode_table.json, `source_fields`); a command reads its own slots only (R81). -/
structure Operands where
  k : Nat := 0
  d : Byte := 0
  s : Byte := 0
  B : Bytes := []
  fmt : Bytes := []
  names : List FieldName := []
  buf : Bytes := []
  map : Mapping := []
  off : Nat := 0
  chunk : Bytes := []
  req : EncodeRequest := ⟨false, 0, 0, 0, 0, 0, 0, [], none⟩
  id : MsgId := 0
  deriving DecidableEq, Repr

/-- A command as the host presents it: "an 8-bit command code followed by typed operands" (R80). -/
structure Command where
  code : Byte
  ops : Operands := {}
  deriving DecidableEq, Repr

/-- The three kinds of thing the block decodes (spec/30_encoding.md, opening): a command, the characters of a
wire-format string (in the direction of the command that runs it), the bytes of a frame. -/
inductive Source where
  | cmd (c : Command)
  | tok (dir : Dir) (chars : Bytes)
  | frame (bytes : Bytes)
  deriving DecidableEq, Repr

end Sys2Proof
end

