-- ==== Sys2Proof/Config.lean ====
section
/-! DEFINITION. The parameters of the block (spec/00_scope.md R6): the constants the spec fixes, and the OPEN
parameters and free values, which are opaque constants with no body: nothing in Lean can evaluate one. -/

namespace Sys2Proof.Config

/-- `CRC_INIT` (R6, R170). -/
def crcInit : Crc := 0xFFFF#16

/-- `MARK_V1` (R6, R90). -/
def markV1 : Byte := 0xFE#8

/-- `MARK_V2` (R6, R91). -/
def markV2 : Byte := 0xFD#8

/-- `HL_V1`, marker included (R6, R93). -/
def hlV1 : Nat := 6

/-- `HL_V2`, marker included (R6, R93). -/
def hlV2 : Nat := 10

/-- `CRC_LEN` (R6). -/
def crcLen : Nat := 2

/-- `SIG_LEN` (R6, R96). -/
def sigLen : Nat := 13

/-- `PLEN_MAX` (R6): the `len` field is one byte. -/
def plenMax : Nat := 255

/-- `FRAME_MAX` (R6). -/
def frameMax : Nat := 280

/-- `RESID_MAX` (R6, R209). -/
def residMax : Nat := 279

/-- `REGISTRY` (R5, R6: OPEN). The descriptors an instance is built with; `State.reset` carries them in the field
`registry`, which no instruction writes. Uninterpreted (notes/assumptions/2.md). -/
opaque registry : List Descriptor

/-- `SIG_HASH key data` (R5, R190: OPEN, uninterpreted): the first six bytes of the hash (notes/assumptions/3.md). -/
opaque sigHash : Bytes → Bytes → Tag

/-- Free values for a byte sequence the spec leaves unspecified (R270, U1), one for each use
(notes/assumptions/4.md). -/
opaque freeBytes : Nat → Bytes

/-- Free values for a natural the spec leaves unspecified (R270, U1), one for each use
(notes/assumptions/4.md). -/
opaque freeNat : Nat → Nat

end Sys2Proof.Config
end

