-- ==== Sys2Proof/Machine/State.lean ====
section
/-! DEFINITION. The state of one instance of the block, as plain data (spec/10_state.md): the eight persistent
registers of R20, the transient registers of R35 (which exist only while a command runs), the host's channels (D2 of
spec/92_eei_decisions.md), and two fields of the model's own. -/

namespace Sys2Proof.Machine

/-! ## Records -/

/-- Frame header (R31); the two flag bytes are absent, not zero, in a v1 header (C8 of spec/90_conflicts.md). -/
structure Header where
  isV2 : Bool
  payloadLength : Byte
  incompatFlags : Option Byte
  compatFlags : Option Byte
  sequence : Byte
  systemId : Byte
  componentId : Byte
  messageId : MsgId
  deriving DecidableEq, Repr

/-- Decoded message (R33). -/
structure Message where
  header : Header
  payload : Mapping
  signature : Option SigBlock
  deriving DecidableEq, Repr

/-! ## Outcomes of a command -/

/-- The error responses of R261. -/
inductive ErrorCode where
  | eFormat | eMismatch | eDecode | eBounds | eValue | eUnknownId | eBadCmd | eFaulted
  deriving DecidableEq, Repr

/-- The fault codes of R261: what the register FAULT can hold (R28). -/
inductive FaultCode where
  | fFormat
  deriving DecidableEq, Repr

/-- What a command returns to the host (R12, R81). -/
inductive Response where
  /-- RESET, CRC.INIT, CRC.STEP, CRC.SEED, CRC.BUF: "none" (R81). -/
  | done
  /-- RDCNT (R251). -/
  | nat (n : Nat)
  /-- CRC.RD, CRC.FRAME (R177, R178). -/
  | word (w : Crc)
  /-- FMT.TOK (R121). -/
  | tokens (toks : List Token)
  /-- UNPACK (R130). -/
  | mapping (m : Mapping)
  /-- PACK: the buffer and the end cursor (R150). -/
  | packed (buf : Bytes) (cur : Nat)
  /-- PARSE (R207). -/
  | messages (out : List Message)
  /-- ENCODE (R230). -/
  | frame (bytes : Bytes)
  /-- BUILD_DEFAULT (R253). -/
  | skeleton (id : MsgId) (m : Mapping)
  /-- An error response `E_*` (R261). -/
  | error (e : ErrorCode)
  /-- The fault response of PARSE with its descriptive information: the message id and the cause (R270, D24). -/
  | fault (f : FaultCode) (id : MsgId) (cause : ErrorCode)
  deriving DecidableEq, Repr

/-! ## Transient registers (R35) -/

/-- The transient registers of a running PARSE: `W`, `SC`, `OUT` and the frame accumulator `ACC` (R35, R40). -/
structure ParseRun where
  w : Bytes
  sc : Nat
  out : List Message
  acc : Crc
  deriving DecidableEq, Repr

/-- Who runs an unpack token program: the host's UNPACK, or the decode of a candidate frame inside a PARSE (R115). -/
inductive UnpackCaller where
  | host
  | frame (p : ParseRun) (hdr : Header) (sig : Option SigBlock)
  deriving DecidableEq, Repr

/-- The transient registers of a running unpack token program: `TOKS`, `TI`, `CUR` (R35, R36), the buffer it
reads, the field names, and the mapping `M` built so far (R130). -/
structure UnpackRun where
  toks : List Token
  ti : Nat
  cur : Nat
  buf : Bytes
  names : List FieldName
  m : Mapping
  caller : UnpackCaller
  deriving DecidableEq, Repr

/-- Who runs a pack token program: the host's PACK, or an ENCODE (R115), with its request and descriptor. -/
inductive PackCaller where
  | host
  | encode (req : EncodeRequest) (d : Descriptor)
  deriving DecidableEq, Repr

/-- The transient registers of a running pack token program: `TOKS`, `TI`, `CUR` (R35, R36), the destination `out`
(`SCRATCH` when the caller is ENCODE), the field names and the mapping packed (R150, R233). -/
structure PackRun where
  toks : List Token
  ti : Nat
  cur : Nat
  out : Bytes
  names : List FieldName
  map : Mapping
  caller : PackCaller
  deriving DecidableEq, Repr

/-- What the block is running. Between commands it is `idle` and no transient register exists (R35, R45); the other
three are the block in the middle of a command (notes/assumptions/6.md). -/
inductive Run where
  | idle
  | unpack (r : UnpackRun)
  | pack (r : PackRun)
  | parse (p : ParseRun)
  deriving DecidableEq, Repr

/-- One instance of the block. -/
structure State where
  /-- `RESID` (R20, R21). -/
  resid : Bytes
  /-- `TRASH` (R20, R22). -/
  trash : Nat
  /-- `CRCERR` (R20, R23). -/
  crcerr : Nat
  /-- `UNKMSG` (R20, R24). -/
  unkmsg : Nat
  /-- `PARSEERR` (R20, R25). -/
  parseerr : Nat
  /-- `PKTS` (R20, R26). -/
  pkts : Nat
  /-- `FAULT` (R20, R28). -/
  fault : Option FaultCode
  /-- `CRC` (R20, R29). -/
  crc : Crc
  /-- The transient registers, while a command runs (R35). -/
  run : Run
  /-- Channel CMD (D2): the commands the host has issued and the block has not yet taken, first one first. -/
  cmd : List Command
  /-- Channel RSP (D2): the responses returned, oldest first. -/
  rsp : List Response
  /-- Channel MSG (D2, R275): the notifications delivered, oldest first. -/
  msg : List Message
  /-- `REGISTRY` (R5), a parameter fixed for the life of the instance: no instruction writes it (R67). -/
  registry : List Descriptor
  /-- The model's own: how many free values have been used (notes/assumptions/4.md). -/
  free : Nat
  deriving DecidableEq, Repr

/-- Why the model stops: cases to which the spec gives no step. -/
inductive Fault where
  /-- Raised by every host command that is run while another command runs on the same instance: "A second command
  presented to an instance while one is running has no defined behaviour; the model has no such step" (R64, R277,
  R300, R301, U2). Safe. -/
  | concurrentDrive
  /-- Raised by a token microcodelet when no token program of its direction is running: a token acts only under the
  command that runs its string (R115). Safe. -/
  | noTokenProgram
  /-- Raised by a frame instruction when no PARSE is running: `decode_frame` is not a host command (R215). Safe. -/
  | noParse
  deriving DecidableEq, Repr

/-- Why the model has no meaning for what it was given. -/
inductive Refusal where
  /-- Raised by an arm of exec whose instruction has no meaning yet. Safe. -/
  | notModelled (mnemonic : String)
  /-- Raised by the step when a PACK or ENCODE comes with an operand that repeats a field name and so is no mapping
  (R11): it is not a command of the spec. Safe. -/
  | operandNotMapping
  deriving DecidableEq, Repr

/-- The state after reset: R45, R291; the channels are empty, nothing runs (R292), and the registry is the
parameter (R293). -/
def State.reset : State where
  resid := []
  trash := 0
  crcerr := 0
  unkmsg := 0
  parseerr := 0
  pkts := 0
  fault := none
  crc := Config.crcInit
  run := .idle
  cmd := []
  rsp := []
  msg := []
  registry := Config.registry
  free := 0

end Sys2Proof.Machine
end

