-- ==== Sys2Proof/Machine/Ops.lean ====
section
/-! DEFINITION. The named operations on the registers and the channels, among them the one way the fault is taken
(spec/60_exceptions.md R270) and the one way back from it (spec/48_system.md R250). -/

namespace Sys2Proof.Machine

/-! ## Registers -/

/-- `CRC <- c` (R29). -/
def State.setCrc (c : Crc) (s : State) : State := { s with crc := c }

/-- `RESID <- B` (R21). -/
def State.setResid (B : Bytes) (s : State) : State := { s with resid := B }

/-- `TRASH <- TRASH + 1` (R22). -/
def State.countTrash (s : State) : State := { s with trash := s.trash + 1 }

/-- `CRCERR <- CRCERR + 1` (R23). -/
def State.countCrcErr (s : State) : State := { s with crcerr := s.crcerr + 1 }

/-- `UNKMSG <- UNKMSG + 1` (R24). -/
def State.countUnkMsg (s : State) : State := { s with unkmsg := s.unkmsg + 1 }

/-- `PARSEERR <- PARSEERR + 1` (R25). -/
def State.countParseErr (s : State) : State := { s with parseerr := s.parseerr + 1 }

/-- `PKTS <- PKTS + 1` (R26). -/
def State.countPkt (s : State) : State := { s with pkts := s.pkts + 1 }

/-- The counter a selector names (R251). -/
def State.counter (k : Counter) (s : State) : Nat :=
  match k with
  | .trash => s.trash
  | .crcerr => s.crcerr
  | .unkmsg => s.unkmsg
  | .parseerr => s.parseerr
  | .pkts => s.pkts

/-! ## Transient registers -/

/-- What the block runs from now on (R35). -/
def State.setRun (r : Run) (s : State) : State := { s with run := r }

/-! ## Channels -/

/-- The block takes the first command of channel CMD. -/
def State.popCmd (s : State) : State := { s with cmd := s.cmd.tail }

/-- The response of the running command, which ends with it (R7): after it no transient register exists (R35). -/
def State.respond (r : Response) (s : State) : State := { s with rsp := s.rsp ++ [r], run := .idle }

/-- The notification of `emit` (R275). -/
def State.notify (m : Message) (s : State) : State := { s with msg := s.msg ++ [m] }

/-! ## The environment -/

/-- `lookup(id)` (R5, R255): no side effect, and the answer for an id never changes (R67). -/
def lookupIn (registry : List Descriptor) (id : MsgId) : Option Descriptor := registry.find? (fun d => d.id = id)

/-! ## Host commands -/

/-- A host command: one atomic transition (R7, R61), with no step while another command runs (R64, R300). -/
def State.command (f : State → State) (s : State) : Host.Outcome State Fault Refusal :=
  match s.run with
  | .idle => .next (f s)
  | .unpack _ => .fault .concurrentDrive
  | .pack _ => .fault .concurrentDrive
  | .parse _ => .fault .concurrentDrive

/-! ## The fault -/

/-- Taking the fault `F_FORMAT` inside PARSE (R270): `FAULT <- F_FORMAT`; PARSE ends with the response `F_FORMAT`
in place of `OUT`; what was emitted stays emitted; RESID and the five counters are unspecified from this point (U1):
free values, RESID within the bound of R20. -/
def State.takeFault (id : MsgId) (cause : ErrorCode) (s : State) : State :=
  { s with
    fault := some .fFormat
    resid := (Config.freeBytes s.free).take Config.residMax
    trash := Config.freeNat s.free
    crcerr := Config.freeNat (s.free + 1)
    unkmsg := Config.freeNat (s.free + 2)
    parseerr := Config.freeNat (s.free + 3)
    pkts := Config.freeNat (s.free + 4)
    free := s.free + 5
    rsp := s.rsp ++ [.fault .fFormat id cause]
    run := .idle }

/-- RESET of the persistent registers (R250, R45), the only way out of the fault (R271). -/
def State.resetRegs (s : State) : State :=
  { s with
    resid := []
    trash := 0
    crcerr := 0
    unkmsg := 0
    parseerr := 0
    pkts := 0
    fault := none
    crc := Config.crcInit }

end Sys2Proof.Machine
end

