-- ==== Sys2Proof/Machine/Checksum.lean ====
section
/-! DEFINITION. The Checksum Engine: the mixing step and the CRC.* commands (spec/43_checksum.md). -/

namespace Sys2Proof.Machine

/-- The mixing step `mix(c, d)` (R171; the formula is from general knowledge, G1: notes/assumptions/7.md). -/
def mix (c : Crc) (d : Byte) : Crc :=
  let t1 : BitVec 8 := d ^^^ c.setWidth 8
  let t2 : BitVec 8 := t1 ^^^ (t1 <<< 4)
  (c >>> 8) ^^^ (t2.setWidth 16 <<< 8) ^^^ (t2.setWidth 16 <<< 3) ^^^ (t2.setWidth 16 >>> 4)

/-- The mixing step over a byte sequence, ascending offsets (R176). -/
def mixAll (c : Crc) (B : Bytes) : Crc := B.foldl mix c

/-- `frame_crc(F, hl, L, s)` with its own accumulator `ACC` (R179, R40): bytes `F[1 .. hl+L)`, then the seed step. -/
def frameCrc (F : Bytes) (hl L : Nat) (seed : Byte) : Crc := mix (mixAll Config.crcInit (slice F 1 (hl + L))) seed

/-- CRC.INIT (R173). -/
def execCrcInit (s : State) : Host.Outcome State Fault Refusal :=
  s.command fun s => (s.setCrc Config.crcInit).respond .done

/-- CRC.STEP (R174). -/
def execCrcStep (d : Byte) (s : State) : Host.Outcome State Fault Refusal :=
  s.command fun s => (s.setCrc (mix s.crc d)).respond .done

/-- CRC.SEED (R175): the same mixing step, the seed as data, a zero seed included. -/
def execCrcSeed (seed : Byte) (s : State) : Host.Outcome State Fault Refusal :=
  s.command fun s => (s.setCrc (mix s.crc seed)).respond .done

/-- CRC.BUF (R176). -/
def execCrcBuf (B : Bytes) (s : State) : Host.Outcome State Fault Refusal :=
  s.command fun s => (s.setCrc (mixAll s.crc B)).respond .done

/-- CRC.RD (R177). -/
def execCrcRd (s : State) : Host.Outcome State Fault Refusal :=
  s.command fun s => s.respond (.word s.crc)

/-- CRC.FRAME (R178): CRC is left holding the result. -/
def execCrcFrame (B : Bytes) (seed : Byte) (s : State) : Host.Outcome State Fault Refusal :=
  s.command fun s =>
    let c := mix (mixAll Config.crcInit B) seed
    (s.setCrc c).respond (.word c)

end Sys2Proof.Machine
end

