-- ==== Sys2Proof/WellFormed.lean ====
section
/-! DEFINITION. When a term of `Instr` is an instruction of the spec: the checks no operand type makes. -/

namespace Sys2Proof

/-- A mapping has distinct names (R11). -/
def Mapping.wf (m : Mapping) : Bool := decide ((m.map Prod.fst).Nodup)

/-- The count of a token is a positive natural (R102, `COUNT_MAX` of R6). -/
def countWf (cnt : Nat) : Bool := decide (1 ≤ cnt)

/-- The payload of a v1 frame has exactly `len` bytes (R90). -/
def FrameV1.wf (fr : FrameV1) : Bool := decide (fr.payload.length = fr.len.toNat)

/-- The payload of a v2 frame has exactly `len` bytes, and there is a signature block if and only if
`incompat[0] = 1` (R91, R185). -/
def FrameV2.wf (fr : FrameV2) : Bool :=
  decide (fr.payload.length = fr.len.toNat) && (fr.sig.isSome == fr.incompat.getLsbD 0)

/-- Well-formed instructions. -/
def Instr.wf : Instr → Bool
  | .reset => true
  | .rdcnt _ => true
  | .crcInit => true
  | .crcStep _ => true
  | .crcSeed _ => true
  | .crcBuf _ => true
  | .crcRd => true
  | .crcFrame _ _ => true
  | .fmtTok _ => true
  | .unpack _ _ _ => true
  | .pack map _ _ _ _ => Mapping.wf map
  | .parse _ => true
  | .encode req => Mapping.wf req.payload
  | .buildDefault _ => true
  | .uf cnt => countWf cnt
  | .ud cnt => countWf cnt
  | .ub cnt => countWf cnt
  | .uB cnt => countWf cnt
  | .uh cnt => countWf cnt
  | .uH cnt => countWf cnt
  | .ui cnt => countWf cnt
  | .uI cnt => countWf cnt
  | .uq cnt => countWf cnt
  | .uQ cnt => countWf cnt
  | .uc cnt => countWf cnt
  | .pf cnt => countWf cnt
  | .pd cnt => countWf cnt
  | .pb cnt => countWf cnt
  | .pB cnt => countWf cnt
  | .ph cnt => countWf cnt
  | .pH cnt => countWf cnt
  | .pi cnt => countWf cnt
  | .pI cnt => countWf cnt
  | .pq cnt => countWf cnt
  | .pQ cnt => countWf cnt
  | .pc cnt => countWf cnt
  | .frameV1 fr => fr.wf
  | .frameV2 fr => fr.wf

end Sys2Proof
end

