-- ==== Sys2Proof/Decode.lean ====
section
/-! DEFINITION. The decoders, total on whatever they are given and rejecting by name, and after them the encoder
(spec/30_encoding.md). Three formats: commands (R80, R81, R106), tokens (R82 to R87, R100 to R102), frames
(R90 to R93, R96, R107; the waits are R200 and R202). -/

namespace Sys2Proof

/-! ## Why a decoder rejects -/

/-- The three causes of `E_FORMAT` (R124, R125, R127). -/
inductive FormatError where
  /-- A character that is neither a digit nor a type code (R100, R124). -/
  | unrecognized (ch : Byte)
  /-- A count that evaluates to 0 (R102, R125). -/
  | zeroCount
  /-- Digits with no trailing code (R101, R127). -/
  | dangling
  deriving DecidableEq, Repr

/-- Why a byte sequence is not a complete candidate frame. -/
inductive FrameReject where
  /-- There is no byte at all. -/
  | empty
  /-- The first byte is neither start marker (R103). -/
  | notMarker
  /-- Fewer bytes than the header length (R200). -/
  | headerWait
  /-- Fewer bytes than the total length the header declares (R202). -/
  | frameWait
  deriving DecidableEq, Repr

/-- Why a command is not an instruction. -/
inductive CommandReject where
  /-- A command code outside R81 (R106). -/
  | badCode (code : Byte)
  /-- A RDCNT selector above 4 (R106). -/
  | badSelector (k : Nat)
  /-- An operand that stands for a mapping and repeats a name, which no mapping does (R11). -/
  | operandNotMapping
  deriving DecidableEq, Repr

/-- Why a source is not an instruction. -/
inductive Reject where
  /-- The command is none of R81. -/
  | command (e : CommandReject)
  /-- The characters do not begin with a token. -/
  | format (e : FormatError)
  /-- There are no characters left where a token was to be read. -/
  | noToken
  /-- The bytes do not begin with a complete frame. -/
  | frame (e : FrameReject)
  deriving DecidableEq, Repr

/-! ## Commands -/

/-- The RDCNT selector (R251). -/
def counterOf (k : Nat) : Option Counter :=
  match k with
  | 0 => some .trash
  | 1 => some .crcerr
  | 2 => some .unkmsg
  | 3 => some .parseerr
  | 4 => some .pkts
  | _ => none

/-- The command decoder (R81): the code selects the command, which takes its own operands. -/
def decodeCommand (c : Command) : Except CommandReject Instr :=
  match c.code.toNat with
  | 0x01 => .ok .reset
  | 0x02 =>
    match counterOf c.ops.k with
    | some k => .ok (.rdcnt k)
    | none => .error (.badSelector c.ops.k)
  | 0x10 => .ok .crcInit
  | 0x11 => .ok (.crcStep c.ops.d)
  | 0x12 => .ok (.crcSeed c.ops.s)
  | 0x13 => .ok (.crcBuf c.ops.B)
  | 0x14 => .ok .crcRd
  | 0x15 => .ok (.crcFrame c.ops.B c.ops.s)
  | 0x20 => .ok (.fmtTok c.ops.fmt)
  | 0x21 => .ok (.unpack c.ops.buf c.ops.fmt c.ops.names)
  | 0x22 =>
    if Mapping.wf c.ops.map then .ok (.pack c.ops.map c.ops.fmt c.ops.names c.ops.buf c.ops.off)
    else .error .operandNotMapping
  | 0x30 => .ok (.parse c.ops.chunk)
  | 0x31 =>
    if Mapping.wf c.ops.req.payload then .ok (.encode c.ops.req) else .error .operandNotMapping
  | 0x32 => .ok (.buildDefault c.ops.id)
  | _ => .error (.badCode c.code)

/-! ## Tokens -/

/-- The ASCII value of a type code (R83, R85; the values are from general knowledge, G5). -/
def TypeCode.char : TypeCode → Byte
  | .f => 0x66#8
  | .d => 0x64#8
  | .b => 0x62#8
  | .B => 0x42#8
  | .h => 0x68#8
  | .H => 0x48#8
  | .i => 0x69#8
  | .I => 0x49#8
  | .q => 0x71#8
  | .Q => 0x51#8
  | .c => 0x63#8

/-- The eleven type codes, in the order of R85. -/
def TypeCode.all : List TypeCode := [.f, .d, .b, .B, .h, .H, .i, .I, .q, .Q, .c]

/-- The width of a type code in bytes (R85). -/
def TypeCode.width : TypeCode → Nat
  | .f => 4
  | .d => 8
  | .b => 1
  | .B => 1
  | .h => 2
  | .H => 2
  | .i => 4
  | .I => 4
  | .q => 8
  | .Q => 8
  | .c => 1

/-- The number of bytes of a token's field: `count * width(code)` (R86, R123). -/
def Token.size (t : Token) : Nat := t.count * t.code.width

/-- The type code a character stands for (R85, R100). -/
def typeCodeOf (ch : Byte) : Option TypeCode := TypeCode.all.find? (fun code => code.char = ch)

/-- The value of a decimal digit character `0x30`..`0x39` (R83). -/
def digitOf (ch : Byte) : Option Nat :=
  if 0x30 ≤ ch.toNat ∧ ch.toNat ≤ 0x39 then some (ch.toNat - 0x30) else none

/-- What one character does to the tokenizer (R121). -/
inductive CharStep where
  /-- A digit: the count assembled so far. -/
  | digit (n : Nat)
  /-- A type code: a token is complete. -/
  | token (t : Token)
  deriving DecidableEq, Repr

/-- One pass of the tokenizer's loop over one character, `n` the count being assembled (R84, R121). -/
def charStep (n : Option Nat) (ch : Byte) : Except FormatError CharStep :=
  match digitOf ch with
  | some dv =>
    .ok (.digit (match n with
      | none => dv
      | some m => 10 * m + dv))
  | none =>
    match typeCodeOf ch with
    | some code =>
      let cnt := match n with
        | none => 1
        | some m => m
      if cnt = 0 then .error .zeroCount else .ok (.token ⟨cnt, code⟩)
    | none => .error (.unrecognized ch)

/-- The first token of a wire-format string and the characters after it (R87). -/
def readToken (n : Option Nat) : Bytes → Except Reject (Token × Bytes)
  | [] =>
    match n with
    | none => .error .noToken
    | some _ => .error (.format .dangling)
  | ch :: rest =>
    match charStep n ch with
    | .error e => .error (.format e)
    | .ok (.digit n') => readToken (some n') rest
    | .ok (.token t) => .ok (t, rest)

/-- The instruction a token selects in a direction (R115). -/
def Token.instr (dir : Dir) (t : Token) : Instr :=
  match dir, t.code with
  | .unpack, .f => .uf t.count
  | .unpack, .d => .ud t.count
  | .unpack, .b => .ub t.count
  | .unpack, .B => .uB t.count
  | .unpack, .h => .uh t.count
  | .unpack, .H => .uH t.count
  | .unpack, .i => .ui t.count
  | .unpack, .I => .uI t.count
  | .unpack, .q => .uq t.count
  | .unpack, .Q => .uQ t.count
  | .unpack, .c => .uc t.count
  | .pack, .f => .pf t.count
  | .pack, .d => .pd t.count
  | .pack, .b => .pb t.count
  | .pack, .B => .pB t.count
  | .pack, .h => .ph t.count
  | .pack, .H => .pH t.count
  | .pack, .i => .pi t.count
  | .pack, .I => .pI t.count
  | .pack, .q => .pq t.count
  | .pack, .Q => .pQ t.count
  | .pack, .c => .pc t.count

/-- The token decoder: the first instruction of a token program and the characters after it. -/
def decodeToken (dir : Dir) (chars : Bytes) : Except Reject (Instr × Bytes) :=
  match readToken none chars with
  | .error e => .error e
  | .ok (t, rest) => .ok (t.instr dir, rest)

/-! ## Frames -/

/-- A complete candidate frame, by its version (R93). -/
inductive Frame where
  | v1 (fr : FrameV1)
  | v2 (fr : FrameV2)
  deriving DecidableEq, Repr

/-- The row of the table a frame stands for (R115). -/
def Frame.instr : Frame → Instr
  | .v1 fr => .frameV1 fr
  | .v2 fr => .frameV2 fr

/-- The transmitted checksum `F[a] + 256 * F[a+1]` (R92). -/
def crcAt (F : Bytes) (a : Nat) : Crc := BitVec.ofNat 16 ((byteAt F a).toNat + 256 * (byteAt F (a + 1)).toNat)

/-- `sig_extract(F, L)` (R187): link id, timestamp and tag from offset `12 + L` (R96). -/
def sigExtract (F : Bytes) (L : Nat) : SigBlock :=
  let s := 12 + L
  { linkId := byteAt F s
    timestamp := BitVec.ofNat 48 (ule (slice F (s + 1) (s + 7)))
    tag := ⟨byteAt F (s + 7), byteAt F (s + 8), byteAt F (s + 9), byteAt F (s + 10), byteAt F (s + 11),
            byteAt F (s + 12)⟩ }

/-- `signed`: bit 0 of the `incompat` byte of a v2 frame (R95, R185, R201). -/
def signedV2 (F : Bytes) : Bool := (byteAt F 2).getLsbD 0

/-- The total length a v1 header declares (R90, R201). -/
def totalV1 (F : Bytes) : Nat := Config.hlV1 + (byteAt F 1).toNat + Config.crcLen

/-- The total length a v2 header declares (R91, R201). -/
def totalV2 (F : Bytes) : Nat :=
  Config.hlV2 + (byteAt F 1).toNat + Config.crcLen + (if signedV2 F then Config.sigLen else 0)

/-- The fields of a v1 frame by their offsets (R90). -/
def fieldsV1 (F : Bytes) : FrameV1 :=
  let L := (byteAt F 1).toNat
  { len := byteAt F 1
    seq := byteAt F 2
    sys := byteAt F 3
    comp := byteAt F 4
    msgid := byteAt F 5
    payload := slice F Config.hlV1 (Config.hlV1 + L)
    crc := crcAt F (Config.hlV1 + L) }

/-- The fields of a v2 frame by their offsets (R91, R92). -/
def fieldsV2 (F : Bytes) : FrameV2 :=
  let L := (byteAt F 1).toNat
  { len := byteAt F 1
    incompat := byteAt F 2
    compat := byteAt F 3
    seq := byteAt F 4
    sys := byteAt F 5
    comp := byteAt F 6
    msgid := BitVec.ofNat 24 (ule (slice F 7 10))
    payload := slice F Config.hlV2 (Config.hlV2 + L)
    crc := crcAt F (Config.hlV2 + L)
    sig := if signedV2 F then some (sigExtract F L) else none }

/-- The frame decoder: the candidate frame at the start of a byte sequence and its total length; or the wait of
R200 (whole header first, R107) or R202. The version is decided by the marker alone (R93). -/
def decodeFrame (bs : Bytes) : Except FrameReject (Frame × Nat) :=
  match bs with
  | [] => .error .empty
  | m :: _ =>
    if m = Config.markV1 then
      if bs.length < Config.hlV1 then .error .headerWait
      else if bs.length < totalV1 bs then .error .frameWait
      else .ok (.v1 (fieldsV1 (bs.take (totalV1 bs))), totalV1 bs)
    else if m = Config.markV2 then
      if bs.length < Config.hlV2 then .error .headerWait
      else if bs.length < totalV2 bs then .error .frameWait
      else .ok (.v2 (fieldsV2 (bs.take (totalV2 bs))), totalV2 bs)
    else .error .notMarker

/-! ## All three -/

/-- The decoder. -/
def decode : Source → Except Reject Instr
  | .cmd c =>
    match decodeCommand c with
    | .error e => .error (.command e)
    | .ok i => .ok i
  | .tok dir chars =>
    match decodeToken dir chars with
    | .error e => .error e
    | .ok (i, _) => .ok i
  | .frame bytes =>
    match decodeFrame bytes with
    | .error e => .error (.frame e)
    | .ok (fr, _) => .ok fr.instr

/-- The bytes of a table word: `nbits` bits, bit 0 the least significant bit of the first byte, and zeros above them
up to the longest instruction its second byte can declare: a signed v2 frame, `25 + len` bytes, 280 at most
(`FRAME_MAX`, R6, R91). -/
def tableBytes (nbits w : Nat) : Bytes :=
  let v := w % 2 ^ nbits
  le (max ((nbits + 7) / 8) (Config.hlV2 + v / 256 % 256 + Config.crcLen + Config.sigLen)) v

/-- The source that raw bytes stand for when nothing else says which of the three formats they are in: the first
byte is a command code (its operands then zero or empty), a marker, or a character of a token program. No value is
two of them but the digits `'0'`..`'2'`, which are read as commands. A token is read in the unpack direction: the
direction is in no bit of it (R115; notes/assumptions/5.md). -/
def tableSource (bytes : Bytes) : Source :=
  let m := byteAt bytes 0
  if m = Config.markV1 ∨ m = Config.markV2 then .frame bytes
  else
    match decodeCommand ⟨m, {}⟩ with
    | .ok _ => .cmd ⟨m, {}⟩
    | .error _ =>
      match decodeToken .unpack bytes with
      | .ok _ => .tok .unpack bytes
      | .error _ => .cmd ⟨m, {}⟩

/-- The instruction the decoder reads from a table word. -/
def decodeTableWord (nbits w : Nat) : Option Instr :=
  match decode (tableSource (tableBytes nbits w)) with
  | .ok i => some i
  | .error _ => none

/-! ## The encoder -/

/-- The digit character of a value below 10 (R83). -/
def digitChar (d : Nat) : Byte := BitVec.ofNat 8 (0x30 + d)

/-- The decimal digits of `n`, most significant first (R84); `fuel` bounds their number. -/
def decDigits : Nat → Nat → Bytes
  | 0, _ => []
  | fuel + 1, n => if n < 10 then [digitChar n] else decDigits fuel (n / 10) ++ [digitChar (n % 10)]

/-- The characters of a token; an absent count means 1 (R84, R111). -/
def Token.chars (t : Token) : Bytes := (if t.count = 1 then [] else decDigits (t.count + 1) t.count) ++ [t.code.char]

/-- The header of a v1 frame, marker first (R90, R237). -/
def headerBytesV1 (len seq sys comp msgid : Byte) : Bytes := [Config.markV1, len, seq, sys, comp, msgid]

/-- The header of a v2 frame, marker first (R91, R236). -/
def headerBytesV2 (len incompat compat seq sys comp : Byte) (msgid : MsgId) : Bytes :=
  [Config.markV2, len, incompat, compat, seq, sys, comp] ++ le 3 msgid.toNat

/-- The six bytes of a tag, in wire order (R55). -/
def Tag.bytes (t : Tag) : Bytes := [t.t0, t.t1, t.t2, t.t3, t.t4, t.t5]

/-- The 13 bytes of a signature block (R96, R186). -/
def SigBlock.bytes (b : SigBlock) : Bytes := [b.linkId] ++ le 6 b.timestamp.toNat ++ b.tag.bytes

/-- The bytes of a v1 frame (R90). -/
def FrameV1.bytes (fr : FrameV1) : Bytes :=
  headerBytesV1 fr.len fr.seq fr.sys fr.comp fr.msgid ++ fr.payload ++ le 2 fr.crc.toNat

/-- The bytes of a v2 frame (R91). -/
def FrameV2.bytes (fr : FrameV2) : Bytes :=
  headerBytesV2 fr.len fr.incompat fr.compat fr.seq fr.sys fr.comp fr.msgid ++ fr.payload ++ le 2 fr.crc.toNat ++
    (match fr.sig with
      | none => []
      | some b => b.bytes)

/-- The selector of a counter (R251). -/
def Counter.selector : Counter → Nat
  | .trash => 0
  | .crcerr => 1
  | .unkmsg => 2
  | .parseerr => 3
  | .pkts => 4

/-- The source of a token program that holds one token. -/
def tokSource (dir : Dir) (code : TypeCode) (cnt : Nat) : Source := .tok dir (Token.chars ⟨cnt, code⟩)

/-- The encoder: the source an instruction is decoded from. -/
def encode : Instr → Source
  | .reset => .cmd ⟨0x01#8, {}⟩
  | .rdcnt k => .cmd ⟨0x02#8, { k := k.selector }⟩
  | .crcInit => .cmd ⟨0x10#8, {}⟩
  | .crcStep d => .cmd ⟨0x11#8, { d := d }⟩
  | .crcSeed seed => .cmd ⟨0x12#8, { s := seed }⟩
  | .crcBuf B => .cmd ⟨0x13#8, { B := B }⟩
  | .crcRd => .cmd ⟨0x14#8, {}⟩
  | .crcFrame B seed => .cmd ⟨0x15#8, { B := B, s := seed }⟩
  | .fmtTok fmt => .cmd ⟨0x20#8, { fmt := fmt }⟩
  | .unpack buf fmt names => .cmd ⟨0x21#8, { buf := buf, fmt := fmt, names := names }⟩
  | .pack map fmt names buf off =>
    .cmd ⟨0x22#8, { map := map, fmt := fmt, names := names, buf := buf, off := off }⟩
  | .parse chunk => .cmd ⟨0x30#8, { chunk := chunk }⟩
  | .encode req => .cmd ⟨0x31#8, { req := req }⟩
  | .buildDefault id => .cmd ⟨0x32#8, { id := id }⟩
  | .uf cnt => tokSource .unpack .f cnt
  | .ud cnt => tokSource .unpack .d cnt
  | .ub cnt => tokSource .unpack .b cnt
  | .uB cnt => tokSource .unpack .B cnt
  | .uh cnt => tokSource .unpack .h cnt
  | .uH cnt => tokSource .unpack .H cnt
  | .ui cnt => tokSource .unpack .i cnt
  | .uI cnt => tokSource .unpack .I cnt
  | .uq cnt => tokSource .unpack .q cnt
  | .uQ cnt => tokSource .unpack .Q cnt
  | .uc cnt => tokSource .unpack .c cnt
  | .pf cnt => tokSource .pack .f cnt
  | .pd cnt => tokSource .pack .d cnt
  | .pb cnt => tokSource .pack .b cnt
  | .pB cnt => tokSource .pack .B cnt
  | .ph cnt => tokSource .pack .h cnt
  | .pH cnt => tokSource .pack .H cnt
  | .pi cnt => tokSource .pack .i cnt
  | .pI cnt => tokSource .pack .I cnt
  | .pq cnt => tokSource .pack .q cnt
  | .pQ cnt => tokSource .pack .Q cnt
  | .pc cnt => tokSource .pack .c cnt
  | .frameV1 fr => .frame fr.bytes
  | .frameV2 fr => .frame fr.bytes

end Sys2Proof
end

