-- ==== Sys2Proof/Machine/Operands.lean ====
section
/-! DEFINITION. The operand forms of the Wire Codec: one element read (R134) and written (R153), the scalar and array
forms of a token (R135, R154) and the zero value of a token (R254). Little-endian throughout (R52). -/

namespace Sys2Proof.Machine

/-! ## Reading -/

/-- `rd(buf, a, code)` (R134). Signed codes are two's complement (R131), floats bit patterns (R132). -/
def rd (buf : Bytes) (a : Nat) (code : TypeCode) : Scalar :=
  let w := code.width
  let u := ule (slice buf a (a + w))
  match code with
  | .B => .int (u : Int)
  | .H => .int (u : Int)
  | .I => .int (u : Int)
  | .Q => .int (u : Int)
  | .b => .int (sext (8 * w) u)
  | .h => .int (sext (8 * w) u)
  | .i => .int (sext (8 * w) u)
  | .q => .int (sext (8 * w) u)
  | .f => .f32 (BitVec.ofNat 32 u)
  | .d => .f64 (BitVec.ofNat 64 u)
  | .c => .char (BitVec.ofNat 8 u)

/-- `[rd(buf, a + k*w, code) for k = 0 .. cnt-1]` (R135): elements in ascending address order. -/
def rdArray (buf : Bytes) (a : Nat) (code : TypeCode) : Nat → List Scalar
  | 0 => []
  | cnt + 1 => rd buf a code :: rdArray buf (a + code.width) code cnt

/-- The longest initial part of a byte sequence without `0x00` (R135). -/
def untilZero (S : Bytes) : Bytes := S.takeWhile (fun b => b ≠ 0)

/-- The forms of every code but `B` and `c` (R135). -/
def readNumeric (code : TypeCode) (buf : Bytes) (a cnt : Nat) : Value :=
  if cnt = 1 then .scalar (rd buf a code) else .arr (rdArray buf a code cnt)

/-! ## Writing -/

/-- The bytes of an unsigned integer in the range of R85, else `none`. -/
def unsignedBytes (w : Nat) (z : Int) : Option Bytes :=
  if 0 ≤ z ∧ z < 2 ^ (8 * w) then some (le w z.toNat) else none

/-- The bytes of a signed integer in the range of R85: the residue `z mod 2^(8w)` (R153), else `none`. -/
def signedBytes (w : Nat) (z : Int) : Option Bytes :=
  if -(2 ^ (8 * w - 1)) ≤ z ∧ z < 2 ^ (8 * w - 1) then some (le w (z % 2 ^ (8 * w)).toNat) else none

/-- The bytes `wr` writes for a scalar, or `none` where it raises `E_VALUE` (R152, R153). -/
def scalarBytes (code : TypeCode) (x : Scalar) : Option Bytes :=
  match code, x with
  | .B, .int z => unsignedBytes 1 z
  | .H, .int z => unsignedBytes 2 z
  | .I, .int z => unsignedBytes 4 z
  | .Q, .int z => unsignedBytes 8 z
  | .b, .int z => signedBytes 1 z
  | .h, .int z => signedBytes 2 z
  | .i, .int z => signedBytes 4 z
  | .q, .int z => signedBytes 8 z
  | .f, .f32 u => some (le 4 u.toNat)
  | .d, .f64 u => some (le 8 u.toNat)
  | .c, .char b => some [b]
  | _, _ => none

/-- `wr(out, a, code, v)` (R153); `none` is `E_VALUE`. -/
def wr (out : Bytes) (a : Nat) (code : TypeCode) (x : Scalar) : Option Bytes :=
  match scalarBytes code x with
  | some S => some (memWrite out a S)
  | none => none

/-- Element `k` at `a + k*w`, in ascending order (R154); `none` is `E_VALUE`. -/
def wrArray (out : Bytes) (a : Nat) (code : TypeCode) : List Scalar → Option Bytes
  | [] => some out
  | x :: L =>
    match wr out a code x with
    | some out' => wrArray out' (a + code.width) code L
    | none => none

/-- The scalar form: the value must be a scalar the code accepts (R154). -/
def writeScalar (code : TypeCode) (out : Bytes) (a : Nat) (v : Value) : Option Bytes :=
  match v with
  | .scalar x => wr out a code x
  | .str _ => none
  | .bytes _ => none
  | .arr _ => none

/-- The forms of every code but `B` and `c` (R154): a value longer than `cnt` is refused, the elements a short one
lacks are not written. -/
def writeNumeric (code : TypeCode) (out : Bytes) (a cnt : Nat) (v : Value) : Option Bytes :=
  if cnt = 1 then writeScalar code out a v
  else
    match v with
    | .arr L => if L.length ≤ cnt then wrArray out a code L else none
    | .scalar _ => none
    | .str _ => none
    | .bytes _ => none

/-- A byte sequence written as it is into a field of `cnt` bytes (R154); a longer one is refused, not cut. -/
def writeBytes (out : Bytes) (a cnt : Nat) (S : Bytes) : Option Bytes :=
  if S.length ≤ cnt then some (memWrite out a S) else none

/-! ## The zero value -/

/-- The zero scalar of a code (R254). -/
def zeroScalar (code : TypeCode) : Scalar :=
  match code with
  | .f => .f32 0
  | .d => .f64 0
  | .c => .char 0
  | .b => .int 0
  | .B => .int 0
  | .h => .int 0
  | .H => .int 0
  | .i => .int 0
  | .I => .int 0
  | .q => .int 0
  | .Q => .int 0

/-- `zero((cnt, code))` (R254). -/
def zeroValue (t : Token) : Value :=
  if t.count = 1 then .scalar (zeroScalar t.code)
  else
    match t.code with
    | .c => .str []
    | .B => .bytes (zeros t.count)
    | .f => .arr (List.replicate t.count (zeroScalar .f))
    | .d => .arr (List.replicate t.count (zeroScalar .d))
    | .b => .arr (List.replicate t.count (zeroScalar .b))
    | .h => .arr (List.replicate t.count (zeroScalar .h))
    | .H => .arr (List.replicate t.count (zeroScalar .H))
    | .i => .arr (List.replicate t.count (zeroScalar .i))
    | .I => .arr (List.replicate t.count (zeroScalar .I))
    | .q => .arr (List.replicate t.count (zeroScalar .q))
    | .Q => .arr (List.replicate t.count (zeroScalar .Q))

end Sys2Proof.Machine
end

