-- ==== Sys2Proof/Machine/Tokenizer.lean ====
section
/-! DEFINITION. The wire-format tokenizer and the checks every token program passes before it runs
(spec/40_wire_format.md; R133, R272). -/

namespace Sys2Proof.Machine

/-- The tokenizer's loop (R121), `n` the count being assembled: the leftmost offending character decides (R272). -/
def tokenizeFrom (n : Option Nat) : Bytes → Except FormatError (List Token)
  | [] =>
    match n with
    | none => .ok []
    | some _ => .error .dangling
  | ch :: rest =>
    match charStep n ch with
    | .error e => .error e
    | .ok (.digit n') => tokenizeFrom (some n') rest
    | .ok (.token t) =>
      match tokenizeFrom none rest with
      | .error e => .error e
      | .ok toks => .ok (t :: toks)

/-- The tokenizer (R120, R121): a function of the string alone. -/
def tokenize (fmt : Bytes) : Except FormatError (List Token) := tokenizeFrom none fmt

/-- `size(TOKS)` (R123). -/
def programSize (toks : List Token) : Nat := (toks.map Token.size).sum

/-- The two descriptor defects (class (e), R262): `E_FORMAT` (R267) and `E_MISMATCH` (R268). -/
inductive FormatDefect where
  | format (e : FormatError)
  | mismatch
  deriving DecidableEq, Repr

/-- The error code of a descriptor defect (R261). -/
def FormatDefect.error : FormatDefect → ErrorCode
  | .format _ => .eFormat
  | .mismatch => .eMismatch

/-- The tokens of a program for a list of names: `E_FORMAT` first, then `E_MISMATCH` for a count that differs or a
repeated name (R133, R272). -/
def program (fmt : Bytes) (names : List FieldName) : Except FormatDefect (List Token) :=
  match tokenize fmt with
  | .error e => .error (.format e)
  | .ok toks =>
    if toks.length ≠ names.length then .error .mismatch
    else if ¬ names.Nodup then .error .mismatch
    else .ok toks

/-- FMT.TOK (R121). -/
def execFmtTok (fmt : Bytes) (s : State) : Host.Outcome State Fault Refusal :=
  s.command fun s =>
    match tokenize fmt with
    | .error _ => s.respond (.error .eFormat)
    | .ok toks => s.respond (.tokens toks)

end Sys2Proof.Machine
end

