-- ==== Sys2Proof/Machine/Pack.lean ====
section
/-! DEFINITION. The pack microcodelets and PACK as a function of its operands (spec/42_pack.md). A microcodelet is
a function of `(out, a, cnt, v)`; `none` is `E_VALUE` (R152). The same ones run under the host's PACK and inside
ENCODE (R115, R233). -/

namespace Sys2Proof.Machine

/-! ## The eleven microcodelets -/

/-- `P.f` (R157). -/
def microPf (out : Bytes) (a cnt : Nat) (v : Value) : Option Bytes :=
  writeNumeric .f out a cnt v

/-- `P.d` (R158). -/
def microPd (out : Bytes) (a cnt : Nat) (v : Value) : Option Bytes :=
  writeNumeric .d out a cnt v

/-- `P.b` (R159). -/
def microPb (out : Bytes) (a cnt : Nat) (v : Value) : Option Bytes :=
  writeNumeric .b out a cnt v

/-- `P.B` (R160). -/
def microPB (out : Bytes) (a cnt : Nat) (v : Value) : Option Bytes :=
  if cnt = 1 then writeScalar .B out a v
  else
    match v with
    | .bytes S => writeBytes out a cnt S
    | .scalar _ => none
    | .str _ => none
    | .arr _ => none

/-- `P.h` (R161). -/
def microPh (out : Bytes) (a cnt : Nat) (v : Value) : Option Bytes :=
  writeNumeric .h out a cnt v

/-- `P.H` (R162). -/
def microPH (out : Bytes) (a cnt : Nat) (v : Value) : Option Bytes :=
  writeNumeric .H out a cnt v

/-- `P.i` (R163). -/
def microPi (out : Bytes) (a cnt : Nat) (v : Value) : Option Bytes :=
  writeNumeric .i out a cnt v

/-- `P.I` (R164). -/
def microPI (out : Bytes) (a cnt : Nat) (v : Value) : Option Bytes :=
  writeNumeric .I out a cnt v

/-- `P.q` (R165). -/
def microPq (out : Bytes) (a cnt : Nat) (v : Value) : Option Bytes :=
  writeNumeric .q out a cnt v

/-- `P.Q` (R166). -/
def microPQ (out : Bytes) (a cnt : Nat) (v : Value) : Option Bytes :=
  writeNumeric .Q out a cnt v

/-- `P.c` (R167). -/
def microPc (out : Bytes) (a cnt : Nat) (v : Value) : Option Bytes :=
  if cnt = 1 then writeScalar .c out a v
  else
    match v with
    | .str S => writeBytes out a cnt S
    | .scalar _ => none
    | .bytes _ => none
    | .arr _ => none

/-- The microcodelet a type code selects under PACK (R115). -/
def microP (code : TypeCode) (out : Bytes) (a cnt : Nat) (v : Value) : Option Bytes :=
  match code with
  | .f => microPf out a cnt v
  | .d => microPd out a cnt v
  | .b => microPb out a cnt v
  | .B => microPB out a cnt v
  | .h => microPh out a cnt v
  | .H => microPH out a cnt v
  | .i => microPi out a cnt v
  | .I => microPI out a cnt v
  | .q => microPq out a cnt v
  | .Q => microPQ out a cnt v
  | .c => microPc out a cnt v

/-! ## PACK as a function -/

/-- The outcomes of PACK that are not a buffer (R169). -/
inductive PackError where
  | defect (d : FormatDefect)
  | bounds
  | value
  deriving DecidableEq, Repr

/-- The error code of a pack error (R261). -/
def PackError.error : PackError → ErrorCode
  | .defect d => d.error
  | .bounds => .eBounds
  | .value => .eValue

/-- The entry of a mapping for a name (R150); entries for other names are ignored (D41). -/
def fieldValue (m : Mapping) (name : FieldName) : Option Value := (m.find? (fun e => e.1 = name)).map Prod.snd

/-- A field's bytes after one token: an absent value writes nothing (R151); `none` is `E_VALUE` (R152). -/
def packField (micro : Bytes → Nat → Nat → Value → Option Bytes) (out : Bytes) (a cnt : Nat) (v : Option Value) :
    Option Bytes :=
  match v with
  | none => some out
  | some v => micro out a cnt v

/-- The token loop of R150 from cursor `cur`: the bound is tested for an absent field too and before the value
(R155, R272); the result is the buffer and the end cursor. -/
def packTokens (map : Mapping) : List (Token × FieldName) → Bytes → Nat → Except PackError (Bytes × Nat)
  | [], out, cur => .ok (out, cur)
  | (t, name) :: rest, out, cur =>
    if cur + t.size > out.length then .error .bounds
    else
      match packField (microP t.code) out cur t.count (fieldValue map name) with
      | none => .error .value
      | some out' => packTokens map rest out' (cur + t.size)

/-- `PACK map fmt names buf off` (R150): the class (e) checks first, then the token loop (R272). -/
def pack (map : Mapping) (fmt : Bytes) (names : List FieldName) (buf : Bytes) (off : Nat) :
    Except PackError (Bytes × Nat) :=
  match program fmt names with
  | .error d => .error (.defect d)
  | .ok toks => packTokens map (toks.zip names) buf off

/-- PACK (R150): on any error no buffer is returned (R156); no persistent register is written. -/
def execPack (map : Mapping) (fmt : Bytes) (names : List FieldName) (buf : Bytes) (off : Nat) (s : State) :
    Host.Outcome State Fault Refusal :=
  s.command fun s =>
    match pack map fmt names buf off with
    | .error e => s.respond (.error e.error)
    | .ok (out, cur) => s.respond (.packed out cur)

/-! ## A token program in the middle of its command -/

/-- The transient registers when the first token is about to run: `CUR <- off; TI <- 0; out <- buf` (R150). -/
def startPack (map : Mapping) (toks : List Token) (names : List FieldName) (buf : Bytes) (off : Nat)
    (caller : PackCaller) : PackRun :=
  { toks := toks, ti := 0, cur := off, out := buf, names := names, map := map, caller := caller }

/-- One pass of the token loop (R150): the bound (R155), the microcodelet if the field has a value (R151), the
cursors (R36). An error ends the command with its response, and the transient buffer is gone (R156, R233). -/
def packStep (micro : Bytes → Nat → Nat → Value → Option Bytes) (w cnt : Nat) (s : State) :
    Host.Outcome State Fault Refusal :=
  match s.run with
  | .pack r =>
    if r.cur + cnt * w > r.out.length then .next (s.respond (.error .eBounds))
    else
      match packField micro r.out r.cur cnt (fieldValue r.map (r.names.getD r.ti [])) with
      | none => .next (s.respond (.error .eValue))
      | some out => .next (s.setRun (.pack { r with out := out, cur := r.cur + cnt * w, ti := r.ti + 1 }))
  | .idle => .fault .noTokenProgram
  | .unpack _ => .fault .noTokenProgram
  | .parse _ => .fault .noTokenProgram

/-- `P.f` (R157) as the token at `TI` of a running program. -/
def execPf (cnt : Nat) (s : State) : Host.Outcome State Fault Refusal :=
  packStep microPf (TypeCode.width .f) cnt s

/-- `P.d` (R158) as the token at `TI` of a running program. -/
def execPd (cnt : Nat) (s : State) : Host.Outcome State Fault Refusal :=
  packStep microPd (TypeCode.width .d) cnt s

/-- `P.b` (R159) as the token at `TI` of a running program. -/
def execPb (cnt : Nat) (s : State) : Host.Outcome State Fault Refusal :=
  packStep microPb (TypeCode.width .b) cnt s

/-- `P.B` (R160) as the token at `TI` of a running program. -/
def execPB (cnt : Nat) (s : State) : Host.Outcome State Fault Refusal :=
  packStep microPB (TypeCode.width .B) cnt s

/-- `P.h` (R161) as the token at `TI` of a running program. -/
def execPh (cnt : Nat) (s : State) : Host.Outcome State Fault Refusal :=
  packStep microPh (TypeCode.width .h) cnt s

/-- `P.H` (R162) as the token at `TI` of a running program. -/
def execPH (cnt : Nat) (s : State) : Host.Outcome State Fault Refusal :=
  packStep microPH (TypeCode.width .H) cnt s

/-- `P.i` (R163) as the token at `TI` of a running program. -/
def execPi (cnt : Nat) (s : State) : Host.Outcome State Fault Refusal :=
  packStep microPi (TypeCode.width .i) cnt s

/-- `P.I` (R164) as the token at `TI` of a running program. -/
def execPI (cnt : Nat) (s : State) : Host.Outcome State Fault Refusal :=
  packStep microPI (TypeCode.width .I) cnt s

/-- `P.q` (R165) as the token at `TI` of a running program. -/
def execPq (cnt : Nat) (s : State) : Host.Outcome State Fault Refusal :=
  packStep microPq (TypeCode.width .q) cnt s

/-- `P.Q` (R166) as the token at `TI` of a running program. -/
def execPQ (cnt : Nat) (s : State) : Host.Outcome State Fault Refusal :=
  packStep microPQ (TypeCode.width .Q) cnt s

/-- `P.c` (R167) as the token at `TI` of a running program. -/
def execPc (cnt : Nat) (s : State) : Host.Outcome State Fault Refusal :=
  packStep microPc (TypeCode.width .c) cnt s

end Sys2Proof.Machine
end

