-- ==== Sys2Proof/Machine/Encoder.lean ====
section
/-! DEFINITION. The Frame Encoder (spec/47_frame_encode.md) and the construction of the signature block
(spec/44_signature_block.md). -/

namespace Sys2Proof.Machine

/-- The 7-byte block: link id, then the low 48 bits of the timestamp, little-endian (R189, R191). -/
def blk7 (sign : Sign) : Bytes := [sign.linkId] ++ le 6 (sign.timestamp % 2 ^ 48)

/-- `sig_build(sign, G)` (R189): the 7-byte block and the tag `SIG_HASH(key, G ++ blk7)`. -/
def sigBuild (sign : Sign) (G : Bytes) : Bytes := blk7 sign ++ (Config.sigHash sign.key (G ++ blk7 sign)).bytes

/-- Truncation (R234, R235): `while n > 1 and SCRATCH[n-1] = 0x00: n <- n - 1`. -/
def truncLen (scratch : Bytes) : Nat → Nat
  | 0 => 0
  | 1 => 1
  | n + 2 => if byteAt scratch (n + 1) = 0 then truncLen scratch (n + 1) else n + 2

/-- Whether a signature block is appended: a v2 frame with a key (R239, R240). -/
def signing (req : EncodeRequest) : Option Sign := if req.isV2 then req.sign else none

/-- The `incompat` byte of the emitted header: bit 0 is set exactly when a signature block follows, the other bits
are the request's (R240). -/
def emittedIncompat (req : EncodeRequest) : Byte :=
  (req.incompatFlags &&& 0xFE#8) ||| (if (signing req).isSome then 0x01#8 else 0x00#8)

/-- The emitted header (R236, R237). -/
def emittedHeader (req : EncodeRequest) (n : Nat) : Bytes :=
  if req.isV2 then
    headerBytesV2 (BitVec.ofNat 8 n) (emittedIncompat req) req.compatFlags req.sequence req.systemId req.componentId
      req.messageId
  else
    headerBytesV1 (BitVec.ofNat 8 n) req.sequence req.systemId req.componentId (req.messageId.setWidth 8)

/-- ENCODE after the pack (R230): truncation, header, checksum over the header and the truncated payload (R238),
then the signature block over the frame through the checksum (R192, R239). -/
def finishFrame (req : EncodeRequest) (d : Descriptor) (scratch : Bytes) : Bytes :=
  let n := truncLen scratch d.maxPayloadLen
  let H := emittedHeader req n
  let G := H ++ scratch.take n
  let G := G ++ le 2 (frameCrc G H.length n d.crcExtra).toNat
  match signing req with
  | none => G
  | some sign => G ++ sigBuild sign G

/-- The descriptor of a request that can be encoded, or the refusal, in the order of R272 (R231, R232). -/
def encodable (registry : List Descriptor) (req : EncodeRequest) : Except ErrorCode Descriptor :=
  match lookupIn registry req.messageId with
  | none => .error .eUnknownId
  | some d =>
    if d.maxPayloadLen > Config.plenMax then .error .eValue
    else if ¬ req.isV2 ∧ req.messageId.toNat > 255 then .error .eValue
    else .ok d

/-- `ENCODE req` as a function (R230, R243): SCRATCH starts as zeros (R39), an error of pack is returned as it is
(R233). -/
def encodeFrame (registry : List Descriptor) (req : EncodeRequest) : Except ErrorCode Bytes :=
  match encodable registry req with
  | .error e => .error e
  | .ok d =>
    match pack req.payload d.wireFormat d.fields (zeros d.maxPayloadLen) 0 with
    | .error e => .error e.error
    | .ok (scratch, _) => .ok (finishFrame req d scratch)

/-- ENCODE (R230): no persistent register is written; allowed while FAULT is set (R243). -/
def execEncode (req : EncodeRequest) (s : State) : Host.Outcome State Fault Refusal :=
  s.command fun s =>
    match encodeFrame s.registry req with
    | .error e => s.respond (.error e)
    | .ok G => s.respond (.frame G)

/-! ## A pack program in the middle of its command -/

/-- The transient registers of an ENCODE when the first token is about to run (R233). -/
def startEncode (req : EncodeRequest) (d : Descriptor) (toks : List Token) : PackRun :=
  startPack req.payload toks d.fields (zeros d.maxPayloadLen) 0 (.encode req d)

/-- The end of the program, `TI = |TOKS|` (R36): the buffer and the cursor go to the host (R150), or the packed
payload to the rest of ENCODE. -/
def finishPack (r : PackRun) (s : State) : State :=
  match r.caller with
  | .host => s.respond (.packed r.out r.cur)
  | .encode req d => s.respond (.frame (finishFrame req d r.out))

end Sys2Proof.Machine
end

