-- ==== Sys2Proof/Machine/Flags.lean ====
section
/-! DEFINITION. The only condition the block computes: the verdict of one candidate frame (spec/10_state.md R42), with
the counter each verdict moves (spec/46_frame_decode.md R226), and the numeric outcome codes
(spec/60_exceptions.md R261). -/

namespace Sys2Proof.Machine

/-- The verdicts of R261. No register holds one (R42). -/
inductive Verdict where
  | ok | unknownId | crc | decode
  deriving DecidableEq, Repr

/-- The code of a verdict (R261; a label only, D40). -/
def Verdict.code : Verdict → Byte
  | .ok => 0x00#8
  | .unknownId => 0x01#8
  | .crc => 0x02#8
  | .decode => 0x03#8

/-- The code of an error response (R261; a label only, D40). -/
def ErrorCode.code : ErrorCode → Byte
  | .eFormat => 0x10#8
  | .eMismatch => 0x11#8
  | .eDecode => 0x12#8
  | .eBounds => 0x13#8
  | .eValue => 0x14#8
  | .eUnknownId => 0x15#8
  | .eBadCmd => 0x1E#8
  | .eFaulted => 0x1F#8

/-- The code of a fault (R261; a label only, D40). -/
def FaultCode.code : FaultCode → Byte
  | .fFormat => 0x20#8

/-- The counter a verdict moves by 1 (R226, R264, R265, R266, R225); exactly one moves. -/
def State.countVerdict (v : Verdict) (s : State) : State :=
  match v with
  | .ok => s.countPkt
  | .unknownId => s.countUnkMsg
  | .crc => s.countCrcErr
  | .decode => s.countParseErr

/-- The verdict `V_OK` (R225): `PKTS` moves, then `emit(m)` appends `m` to `OUT` and delivers it on the notification
channel, in this order (R275); the PARSE goes on. -/
def State.acceptFrame (p : ParseRun) (m : Message) (s : State) : State :=
  ((s.countVerdict .ok).setRun (.parse { p with out := p.out ++ [m] })).notify m

end Sys2Proof.Machine
end

