-- ==== Sys2Proof/Machine/Unpack.lean ====
section
/-! DEFINITION. The unpack microcodelets and UNPACK (spec/41_unpack.md). A microcodelet is a function of
`(buf, a, cnt)`; the token program runs them in string order, and the same ones run under the host's UNPACK and
inside single-frame decode (R115, R223). -/

namespace Sys2Proof.Machine

/-! ## The eleven microcodelets -/

/-- `U.f` (R138): 4-byte float pattern. -/
def microUf (buf : Bytes) (a cnt : Nat) : Value :=
  readNumeric .f buf a cnt

/-- `U.d` (R139): 8-byte float pattern. -/
def microUd (buf : Bytes) (a cnt : Nat) : Value :=
  readNumeric .d buf a cnt

/-- `U.b` (R140): 1-byte signed. -/
def microUb (buf : Bytes) (a cnt : Nat) : Value :=
  readNumeric .b buf a cnt

/-- `U.B` (R141): 1-byte unsigned; an array is `Bytes`. -/
def microUB (buf : Bytes) (a cnt : Nat) : Value :=
  if cnt = 1 then .scalar (rd buf a .B) else .bytes (slice buf a (a + cnt))

/-- `U.h` (R142): 2-byte signed. -/
def microUh (buf : Bytes) (a cnt : Nat) : Value :=
  readNumeric .h buf a cnt

/-- `U.H` (R143): 2-byte unsigned. -/
def microUH (buf : Bytes) (a cnt : Nat) : Value :=
  readNumeric .H buf a cnt

/-- `U.i` (R144): 4-byte signed. -/
def microUi (buf : Bytes) (a cnt : Nat) : Value :=
  readNumeric .i buf a cnt

/-- `U.I` (R145): 4-byte unsigned. -/
def microUI (buf : Bytes) (a cnt : Nat) : Value :=
  readNumeric .I buf a cnt

/-- `U.q` (R146): 8-byte signed. -/
def microUq (buf : Bytes) (a cnt : Nat) : Value :=
  readNumeric .q buf a cnt

/-- `U.Q` (R147): 8-byte unsigned. -/
def microUQ (buf : Bytes) (a cnt : Nat) : Value :=
  readNumeric .Q buf a cnt

/-- `U.c` (R148): 1-byte character; an array is a `Str` cut at its first zero. -/
def microUc (buf : Bytes) (a cnt : Nat) : Value :=
  if cnt = 1 then .scalar (rd buf a .c) else .str (untilZero (slice buf a (a + cnt)))

/-- The microcodelet a type code selects under UNPACK (R115). -/
def microU (code : TypeCode) (buf : Bytes) (a cnt : Nat) : Value :=
  match code with
  | .f => microUf buf a cnt
  | .d => microUd buf a cnt
  | .b => microUb buf a cnt
  | .B => microUB buf a cnt
  | .h => microUh buf a cnt
  | .H => microUH buf a cnt
  | .i => microUi buf a cnt
  | .I => microUI buf a cnt
  | .q => microUq buf a cnt
  | .Q => microUQ buf a cnt
  | .c => microUc buf a cnt

/-! ## UNPACK as a function -/

/-- The outcomes of UNPACK that are not a mapping (R149). -/
inductive UnpackError where
  | defect (d : FormatDefect)
  | decode
  deriving DecidableEq, Repr

/-- The error code of an unpack error (R261). -/
def UnpackError.error : UnpackError → ErrorCode
  | .defect d => d.error
  | .decode => .eDecode

/-- The token loop of R130 from cursor `cur`: each token with its name, the bound tested on the whole token before
any of its bytes is read (R136), bytes after the last token ignored (R137); `none` is `E_DECODE`. -/
def unpackTokens (buf : Bytes) : List (Token × FieldName) → Nat → Option Mapping
  | [], _ => some []
  | (t, name) :: rest, cur =>
    if cur + t.size > buf.length then none
    else
      match unpackTokens buf rest (cur + t.size) with
      | none => none
      | some m => some ((name, microU t.code buf cur t.count) :: m)

/-- `UNPACK buf fmt names` (R130): the class (e) checks first, then the token loop (R272). -/
def unpack (buf fmt : Bytes) (names : List FieldName) : Except UnpackError Mapping :=
  match program fmt names with
  | .error d => .error (.defect d)
  | .ok toks =>
    match unpackTokens buf (toks.zip names) 0 with
    | none => .error .decode
    | some m => .ok m

/-- UNPACK (R130): a pure function of its operands; no persistent register is written (R149). -/
def execUnpack (buf fmt : Bytes) (names : List FieldName) (s : State) : Host.Outcome State Fault Refusal :=
  s.command fun s =>
    match unpack buf fmt names with
    | .error e => s.respond (.error e.error)
    | .ok m => s.respond (.mapping m)

/-! ## A token program in the middle of its command -/

/-- The transient registers when the first token is about to run: `CUR <- 0; TI <- 0; M <- []` (R130). -/
def startUnpack (toks : List Token) (buf : Bytes) (names : List FieldName) (caller : UnpackCaller) : UnpackRun :=
  { toks := toks, ti := 0, cur := 0, buf := buf, names := names, m := [], caller := caller }

/-- `raise E_DECODE` (R136): the host's UNPACK ends with the error response; inside single-frame decode it is caught
and becomes the verdict `V_DECODE` (R224, R260). -/
def raiseDecode (r : UnpackRun) (s : State) : State :=
  match r.caller with
  | .host => s.respond (.error .eDecode)
  | .frame p _ _ => (s.countVerdict .decode).setRun (.parse p)

/-- The end of the program, `TI = |TOKS|` (R36): the mapping goes to the host, or to the message the parser emits
(R225). -/
def finishUnpack (r : UnpackRun) (s : State) : State :=
  match r.caller with
  | .host => s.respond (.mapping r.m)
  | .frame p hdr sig => s.acceptFrame p ⟨hdr, r.m, sig⟩

/-- One pass of the token loop (R130): the bound (R136), the microcodelet, the cursors (R36). -/
def unpackStep (micro : Bytes → Nat → Nat → Value) (w cnt : Nat) (s : State) : Host.Outcome State Fault Refusal :=
  match s.run with
  | .unpack r =>
    if r.cur + cnt * w > r.buf.length then .next (raiseDecode r s)
    else
      .next (s.setRun (.unpack { r with
        m := r.m ++ [(r.names.getD r.ti [], micro r.buf r.cur cnt)]
        cur := r.cur + cnt * w
        ti := r.ti + 1 }))
  | .idle => .fault .noTokenProgram
  | .pack _ => .fault .noTokenProgram
  | .parse _ => .fault .noTokenProgram

/-- `U.f` (R138) as the token at `TI` of a running program. -/
def execUf (cnt : Nat) (s : State) : Host.Outcome State Fault Refusal :=
  unpackStep microUf (TypeCode.width .f) cnt s

/-- `U.d` (R139) as the token at `TI` of a running program. -/
def execUd (cnt : Nat) (s : State) : Host.Outcome State Fault Refusal :=
  unpackStep microUd (TypeCode.width .d) cnt s

/-- `U.b` (R140) as the token at `TI` of a running program. -/
def execUb (cnt : Nat) (s : State) : Host.Outcome State Fault Refusal :=
  unpackStep microUb (TypeCode.width .b) cnt s

/-- `U.B` (R141) as the token at `TI` of a running program. -/
def execUB (cnt : Nat) (s : State) : Host.Outcome State Fault Refusal :=
  unpackStep microUB (TypeCode.width .B) cnt s

/-- `U.h` (R142) as the token at `TI` of a running program. -/
def execUh (cnt : Nat) (s : State) : Host.Outcome State Fault Refusal :=
  unpackStep microUh (TypeCode.width .h) cnt s

/-- `U.H` (R143) as the token at `TI` of a running program. -/
def execUH (cnt : Nat) (s : State) : Host.Outcome State Fault Refusal :=
  unpackStep microUH (TypeCode.width .H) cnt s

/-- `U.i` (R144) as the token at `TI` of a running program. -/
def execUi (cnt : Nat) (s : State) : Host.Outcome State Fault Refusal :=
  unpackStep microUi (TypeCode.width .i) cnt s

/-- `U.I` (R145) as the token at `TI` of a running program. -/
def execUI (cnt : Nat) (s : State) : Host.Outcome State Fault Refusal :=
  unpackStep microUI (TypeCode.width .I) cnt s

/-- `U.q` (R146) as the token at `TI` of a running program. -/
def execUq (cnt : Nat) (s : State) : Host.Outcome State Fault Refusal :=
  unpackStep microUq (TypeCode.width .q) cnt s

/-- `U.Q` (R147) as the token at `TI` of a running program. -/
def execUQ (cnt : Nat) (s : State) : Host.Outcome State Fault Refusal :=
  unpackStep microUQ (TypeCode.width .Q) cnt s

/-- `U.c` (R148) as the token at `TI` of a running program. -/
def execUc (cnt : Nat) (s : State) : Host.Outcome State Fault Refusal :=
  unpackStep microUc (TypeCode.width .c) cnt s

end Sys2Proof.Machine
end

