-- ==== Sys2Proof/Machine/FrameDecode.lean ====
section
/-! DEFINITION. Single-frame decode (spec/46_frame_decode.md): the two frame formats, the tests in their fixed order
(R226), and what each result does to the state. -/

namespace Sys2Proof.Machine

/-- `header_v1(F)` (R216): the id zero-extended, no flags. -/
def headerV1 (fr : FrameV1) : Header :=
  { isV2 := false
    payloadLength := fr.len
    incompatFlags := none
    compatFlags := none
    sequence := fr.seq
    systemId := fr.sys
    componentId := fr.comp
    messageId := fr.msgid.setWidth 24 }

/-- `header_v2(F)` (R217): both flag bytes are copied, none of their bits is tested here (R95). -/
def headerV2 (fr : FrameV2) : Header :=
  { isV2 := true
    payloadLength := fr.len
    incompatFlags := some fr.incompat
    compatFlags := some fr.compat
    sequence := fr.seq
    systemId := fr.sys
    componentId := fr.comp
    messageId := fr.msgid }

/-- What `decode_frame` takes from a candidate frame: the frame `F`, its header and header length, the transmitted
payload and checksum, and the signature record, if the frame is signed (R215, R218). -/
structure Candidate where
  F : Bytes
  hdr : Header
  hl : Nat
  payload : Bytes
  tx : Crc
  sig : Option SigBlock
  deriving DecidableEq, Repr

/-- A v1 frame as a candidate (R216); it never carries a signature block (R185). -/
def candidateV1 (fr : FrameV1) : Candidate :=
  { F := fr.bytes, hdr := headerV1 fr, hl := Config.hlV1, payload := fr.payload, tx := fr.crc, sig := none }

/-- A v2 frame as a candidate (R217, R218). -/
def candidateV2 (fr : FrameV2) : Candidate :=
  { F := fr.bytes, hdr := headerV2 fr, hl := Config.hlV2, payload := fr.payload, tx := fr.crc, sig := fr.sig }

/-- A complete frame as a candidate. -/
def candidateOf : Frame → Candidate
  | .v1 fr => candidateV1 fr
  | .v2 fr => candidateV2 fr

/-- The recomputed checksum of a candidate (R220): the transmitted payload, before any padding. -/
def Candidate.acc (c : Candidate) (d : Descriptor) : Crc := frameCrc c.F c.hl c.hdr.payloadLength.toNat d.crcExtra

/-- The payload given to unpack (R222): zero-padded up to the descriptor's maximum, never cut. -/
def padPayload (payload : Bytes) (maxPayloadLen : Nat) : Bytes :=
  if payload.length < maxPayloadLen then payload ++ zeros (maxPayloadLen - payload.length) else payload

/-- What `decode_frame` finds: a verdict, or the fault of a descriptor defect (R228); `acc` is the accumulator left
in `ACC` once the checksum has been computed (R40). -/
inductive FrameResult where
  | unknownId
  | crc (acc : Crc)
  | defect (acc : Crc) (d : FormatDefect)
  | decode (acc : Crc)
  | message (acc : Crc) (m : Message)
  deriving DecidableEq, Repr

/-- `decode_frame` (R215) up to its effect: a function of the frame and the Registry alone (R229). The first test
that fails decides: unknown id, checksum, descriptor defect, payload bounds (R226). -/
def judge (registry : List Descriptor) (c : Candidate) : FrameResult :=
  match lookupIn registry c.hdr.messageId with
  | none => .unknownId
  | some d =>
    if c.acc d ≠ c.tx then .crc (c.acc d)
    else
      match unpack (padPayload c.payload d.maxPayloadLen) d.wireFormat d.fields with
      | .error (.defect e) => .defect (c.acc d) e
      | .error .decode => .decode (c.acc d)
      | .ok m => .message (c.acc d) ⟨c.hdr, m, c.sig⟩

/-- `decode_frame` on the state, inside a PARSE with transient registers `p` (R215): one counter moves by 1, a
message is emitted (R225), or the fault is taken (R270). It does not touch RESID, TRASH, SC or CRC (R229). -/
def runCandidate (c : Candidate) (p : ParseRun) (s : State) : State :=
  match judge s.registry c with
  | .unknownId => (s.countVerdict .unknownId).setRun (.parse p)
  | .crc acc => (s.countVerdict .crc).setRun (.parse { p with acc := acc })
  | .defect _ d => s.takeFault c.hdr.messageId d.error
  | .decode acc => (s.countVerdict .decode).setRun (.parse { p with acc := acc })
  | .message acc m => s.acceptFrame { p with acc := acc } m

/-- The transient registers of a candidate whose id and checksum were accepted, when the first token of its payload
is about to run (R223). -/
def startFrameUnpack (c : Candidate) (d : Descriptor) (toks : List Token) (p : ParseRun) : UnpackRun :=
  startUnpack toks (padPayload c.payload d.maxPayloadLen) d.fields (.frame { p with acc := c.acc d } c.hdr c.sig)

/-- `decode_frame` has a step only while a PARSE runs (R215). -/
def frameStep (c : Candidate) (s : State) : Host.Outcome State Fault Refusal :=
  match s.run with
  | .parse p => .next (runCandidate c p s)
  | .idle => .fault .noParse
  | .unpack _ => .fault .noParse
  | .pack _ => .fault .noParse

/-- FRAME.V1 (R215, R216). -/
def execFrameV1 (fr : FrameV1) (s : State) : Host.Outcome State Fault Refusal := frameStep (candidateV1 fr) s

/-- FRAME.V2 (R215, R217, R218). -/
def execFrameV2 (fr : FrameV2) (s : State) : Host.Outcome State Fault Refusal := frameStep (candidateV2 fr) s

end Sys2Proof.Machine
end

