-- ==== Sys2Proof/Machine/Parser.lean ====
section
/-! DEFINITION. The Frame Parser (spec/45_frame_parser.md): one micro-step at a time, and PARSE as the whole run of
them. -/

namespace Sys2Proof.Machine

/-- What the parser does at its scan cursor (R195). -/
inductive ParseAction where
  /-- The scan reached the end of `W` (R199). -/
  | exhausted
  /-- A byte that is neither start marker (R198). -/
  | trash
  /-- The header or the frame is not complete (R200, R202). -/
  | wait
  /-- A complete candidate frame and its total length (R203). -/
  | frame (fr : Frame) (total : Nat)
  deriving DecidableEq, Repr

/-- The bytes from the scan cursor on: `W[SC..]` (R9). -/
def ParseRun.rest (p : ParseRun) : Bytes := p.w.drop p.sc

/-- The action at the scan cursor (R198 to R203). -/
def parseAction (p : ParseRun) : ParseAction :=
  match decodeFrame p.rest with
  | .error .empty => .exhausted
  | .error .notMarker => .trash
  | .error .headerWait => .wait
  | .error .frameWait => .wait
  | .ok (fr, total) => .frame fr total

/-- `SC <- SC + n` (R36). -/
def ParseRun.advance (n : Nat) (p : ParseRun) : ParseRun := { p with sc := p.sc + n }

/-- A trash byte: counted and passed over for good (R198). -/
def scanTrash (p : ParseRun) (s : State) : State := s.countTrash.setRun (.parse (p.advance 1))

/-- The three exits of R195: the residual is set and the command ends with the response `OUT` (R199, R200, R202,
R207). -/
def endParse (resid : Bytes) (p : ParseRun) (s : State) : State := (s.setResid resid).respond (.messages p.out)

/-- One micro-step of a running PARSE (R195). The cursor moves past a frame before the frame is decoded, and by its
whole length whatever the verdict (R203, R205). -/
def parseMicro (p : ParseRun) (s : State) : State :=
  match parseAction p with
  | .exhausted => endParse [] p s
  | .trash => scanTrash p s
  | .wait => endParse p.rest p s
  | .frame fr total => runCandidate (candidateOf fr) (p.advance total) s

/-- The micro-steps of a running PARSE, at most `fuel` of them; every one ends the command or moves `SC` (R210). -/
def parseLoop : Nat → State → State
  | 0, s => s
  | fuel + 1, s =>
    match s.run with
    | .parse p => parseLoop fuel (parseMicro p s)
    | .idle => s
    | .unpack _ => s
    | .pack _ => s

/-- `W <- RESID ++ chunk; SC <- 0; OUT <- []` (R196); `ACC` is loaded before every use (R40). -/
def startParse (chunk : Bytes) (s : State) : ParseRun :=
  { w := s.resid ++ chunk, sc := 0, out := [], acc := Config.crcInit }

/-- PARSE without its gates: build, then run to completion (R7, R210): one micro-step for each byte of `W` at most,
and one to end. -/
def parseAll (chunk : Bytes) (s : State) : State :=
  parseLoop ((s.resid ++ chunk).length + 1) (s.setRun (.parse (startParse chunk s)))

/-- PARSE (R195): refused with `E_FAULTED` while FAULT is set, and changes nothing then (R197). -/
def execParse (chunk : Bytes) (s : State) : Host.Outcome State Fault Refusal :=
  s.command fun s =>
    match s.fault with
    | some _ => s.respond (.error .eFaulted)
    | none => parseAll chunk s

end Sys2Proof.Machine
end

