-- ==== Sys2Proof/Machine/System.lean ====
section
/-! DEFINITION. The commands that belong to no unit of their own: RESET, RDCNT, BUILD_DEFAULT (spec/48_system.md). -/

namespace Sys2Proof.Machine

/-- RESET (R250): accepted whether or not FAULT is set. -/
def execReset (s : State) : Host.Outcome State Fault Refusal :=
  s.command fun s => s.resetRegs.respond .done

/-- RDCNT (R251): refused while FAULT is set; reading does not clear. -/
def execRdcnt (k : Counter) (s : State) : Host.Outcome State Fault Refusal :=
  s.command fun s =>
    match s.fault with
    | some _ => s.respond (.error .eFaulted)
    | none => s.respond (.nat (s.counter k))

/-- `BUILD_DEFAULT id` as a function (R253): every field at the zero value of its token (R254). -/
def buildDefault (registry : List Descriptor) (id : MsgId) : Except ErrorCode Mapping :=
  match lookupIn registry id with
  | none => .error .eUnknownId
  | some d =>
    match program d.wireFormat d.fields with
    | .error e => .error e.error
    | .ok toks => .ok (d.fields.zip (toks.map zeroValue))

/-- BUILD_DEFAULT (R253): allowed while FAULT is set. -/
def execBuildDefault (id : MsgId) (s : State) : Host.Outcome State Fault Refusal :=
  s.command fun s =>
    match buildDefault s.registry id with
    | .error e => s.respond (.error e)
    | .ok m => s.respond (.skeleton id m)

end Sys2Proof.Machine
end

