-- ==== Sys2Proof/Machine/Dispatch.lean ====
section
/-! DEFINITION. Which meaning runs each instruction: one arm per row of spec/opcode_table.json. -/

namespace Sys2Proof.Machine

/-- One instruction. -/
def exec (i : Instr) (s : State) : Host.Outcome State Fault Refusal :=
  match i with
  | .reset => Sys2Proof.Machine.execReset s
  | .rdcnt k => Sys2Proof.Machine.execRdcnt k s
  | .crcInit => Sys2Proof.Machine.execCrcInit s
  | .crcStep d => Sys2Proof.Machine.execCrcStep d s
  | .crcSeed seed => Sys2Proof.Machine.execCrcSeed seed s
  | .crcBuf B => Sys2Proof.Machine.execCrcBuf B s
  | .crcRd => Sys2Proof.Machine.execCrcRd s
  | .crcFrame B seed => Sys2Proof.Machine.execCrcFrame B seed s
  | .fmtTok fmt => Sys2Proof.Machine.execFmtTok fmt s
  | .unpack buf fmt names => Sys2Proof.Machine.execUnpack buf fmt names s
  | .pack map fmt names buf off => Sys2Proof.Machine.execPack map fmt names buf off s
  | .parse chunk => Sys2Proof.Machine.execParse chunk s
  | .encode req => Sys2Proof.Machine.execEncode req s
  | .buildDefault id => Sys2Proof.Machine.execBuildDefault id s
  | .uf cnt => Sys2Proof.Machine.execUf cnt s
  | .ud cnt => Sys2Proof.Machine.execUd cnt s
  | .ub cnt => Sys2Proof.Machine.execUb cnt s
  | .uB cnt => Sys2Proof.Machine.execUB cnt s
  | .uh cnt => Sys2Proof.Machine.execUh cnt s
  | .uH cnt => Sys2Proof.Machine.execUH cnt s
  | .ui cnt => Sys2Proof.Machine.execUi cnt s
  | .uI cnt => Sys2Proof.Machine.execUI cnt s
  | .uq cnt => Sys2Proof.Machine.execUq cnt s
  | .uQ cnt => Sys2Proof.Machine.execUQ cnt s
  | .uc cnt => Sys2Proof.Machine.execUc cnt s
  | .pf cnt => Sys2Proof.Machine.execPf cnt s
  | .pd cnt => Sys2Proof.Machine.execPd cnt s
  | .pb cnt => Sys2Proof.Machine.execPb cnt s
  | .pB cnt => Sys2Proof.Machine.execPB cnt s
  | .ph cnt => Sys2Proof.Machine.execPh cnt s
  | .pH cnt => Sys2Proof.Machine.execPH cnt s
  | .pi cnt => Sys2Proof.Machine.execPi cnt s
  | .pI cnt => Sys2Proof.Machine.execPI cnt s
  | .pq cnt => Sys2Proof.Machine.execPq cnt s
  | .pQ cnt => Sys2Proof.Machine.execPQ cnt s
  | .pc cnt => Sys2Proof.Machine.execPc cnt s
  | .frameV1 fr => Sys2Proof.Machine.execFrameV1 fr s
  | .frameV2 fr => Sys2Proof.Machine.execFrameV2 fr s

end Sys2Proof.Machine
end

