-- ==== Sys2Proof/Machine/Fetch.lean ====
section
/-! DEFINITION. Where the next instruction comes from. The block has no program counter; three cursors stand in its
place (spec/10_state.md R36): between commands the head of channel CMD, in a token program `TI`, in a PARSE `SC`. -/

namespace Sys2Proof.Machine

/-- Between commands: the first command of channel CMD is taken and decoded (R81); an illegal code or selector gets
`E_BADCMD`, before anything else is looked at (R106, R272); with no command the block is idle (R284, R292). -/
def stepIdle (s : State) : Host.Outcome State Fault Refusal :=
  match s.cmd with
  | [] => .next s
  | c :: _ =>
    match decodeCommand c with
    | .ok i => exec i s.popCmd
    | .error (.badCode _) => .next (s.popCmd.respond (.error .eBadCmd))
    | .error (.badSelector _) => .next (s.popCmd.respond (.error .eBadCmd))
    | .error .operandNotMapping => .refused .operandNotMapping

/-- In an unpack program: the token at `TI` runs, or the program ends (R36). -/
def stepUnpack (r : UnpackRun) (s : State) : Host.Outcome State Fault Refusal :=
  match r.toks[r.ti]? with
  | some t => exec (t.instr .unpack) s
  | none => .next (finishUnpack r s)

/-- In a pack program: the token at `TI` runs, or the program ends (R36). -/
def stepPack (r : PackRun) (s : State) : Host.Outcome State Fault Refusal :=
  match r.toks[r.ti]? with
  | some t => exec (t.instr .pack) s
  | none => .next (finishPack r s)

/-- In a PARSE: a micro-step (R195); at a complete candidate frame `SC` moves past it and the frame runs (R203). -/
def stepParse (p : ParseRun) (s : State) : Host.Outcome State Fault Refusal :=
  match parseAction p with
  | .exhausted => .next (endParse [] p s)
  | .trash => .next (scanTrash p s)
  | .wait => .next (endParse p.rest p s)
  | .frame fr total => exec fr.instr (s.setRun (.parse (p.advance total)))

/-- Where a source is placed so that the next step runs it: a command at the head of channel CMD; a token as the one
token of a program, over a buffer of zeros just long enough, with one field name and an empty mapping; a frame at
`SC` of a PARSE. -/
def placeSource (src : Source) (s : State) : State :=
  match src with
  | .cmd c => { s with cmd := c :: s.cmd, run := .idle }
  | .tok .unpack chars =>
    match readToken none chars with
    | .ok (t, _) => s.setRun (.unpack (startUnpack [t] (zeros t.size) [[]] .host))
    | .error _ => s
  | .tok .pack chars =>
    match readToken none chars with
    | .ok (t, _) => s.setRun (.pack (startPack [] [t] [[]] (zeros t.size) 0 .host))
    | .error _ => s
  | .frame bytes => s.setRun (.parse { w := bytes, sc := 0, out := [], acc := Config.crcInit })

end Sys2Proof.Machine
end

