-- ==== Sys2Proof/Machine/Step.lean ====
section
/-! DEFINITION. One step of the block, and where a table word is placed for it. -/

namespace Sys2Proof.Machine

/-- One step (R7): between commands one whole command; in the middle of a command one token or one parser
micro-step. -/
def step (s : State) : Host.Outcome State Fault Refusal :=
  match s.run with
  | .idle => stepIdle s
  | .unpack r => stepUnpack r s
  | .pack r => stepPack r s
  | .parse p => stepParse p s

/-- `s` with the instruction of a table word where the step fetches its next one (notes/assumptions/5.md). -/
def State.withFetchWord (s : State) (nbits w : Nat) : State := placeSource (tableSource (tableBytes nbits w)) s

end Sys2Proof.Machine
end

