-- ==== Sys2Proof/Safety.lean ====
section
/-! DEFINITION. What a safe run of the block is, in the terms the claims use: the invariants of the registers, sound
descriptors, the values a field accepts and the value it reads back as. -/

namespace Sys2Proof.Safety

open Sys2Proof.Machine

/-! ## The residual -/

/-- What RESID may hold after a PARSE that returned a response (R209): nothing, or bytes that begin with a start
marker and are fewer than the header, or than the total length their own header declares. -/
abbrev residOk (r : Bytes) : Prop :=
  r = [] ∨
    (byteAt r 0 = Config.markV1 ∧ (r.length < Config.hlV1 ∨ r.length < totalV1 r)) ∨
    (byteAt r 0 = Config.markV2 ∧ (r.length < Config.hlV2 ∨ r.length < totalV2 r))

/-- The invariant of the registers: RESID is within its bound (R20), and while no fault is held it is a wait of the
parser (R21, R209). In a faulted state nothing but the bound is promised (R28, U1). -/
abbrev Inv (s : State) : Prop := s.resid.length ≤ Config.residMax ∧ (s.fault = none → residOk s.resid)

/-- The scan cursor stays within `W` (R35: `0 <= SC <= |W|`). -/
abbrev scanOk (p : ParseRun) : Prop := p.sc ≤ p.w.length

/-- The cursors stay within what they index (R35, R36): `SC` within `W`, also of the PARSE that waits for a token
program; `TI` within `TOKS`; `CUR` within the buffer an unpack program reads, and, once a token has run, within the
buffer a pack program writes (before the first token it is the offset operand, which R155 tests at that token). -/
abbrev cursorsOk (r : Run) : Prop :=
  match r with
  | .idle => True
  | .unpack r =>
    r.ti ≤ r.toks.length ∧ r.cur ≤ r.buf.length ∧
      match r.caller with
      | .host => True
      | .frame p _ _ => scanOk p
  | .pack r => r.ti ≤ r.toks.length ∧ (r.ti = 0 ∨ r.cur ≤ r.out.length)
  | .parse p => scanOk p

/-! ## Descriptors -/

/-- A descriptor without a class (e) defect: its string tokenizes, the counts agree, the names are distinct (R294). -/
abbrev descriptorSound (d : Descriptor) : Prop := ∃ toks, program d.wireFormat d.fields = .ok toks

/-- A Registry without a defective descriptor (R294, R274). -/
abbrev registrySound (registry : List Descriptor) : Prop := ∀ d ∈ registry, descriptorSound d

/-! ## Wire-format strings -/

/-- A decimal digit character (R83). -/
abbrev isDigit (ch : Byte) : Prop := 0x30 ≤ ch.toNat ∧ ch.toNat ≤ 0x39

/-- The characters of the eleven type codes (R83, R85). -/
def codeChars : Bytes :=
  [0x66#8, 0x64#8, 0x62#8, 0x42#8, 0x68#8, 0x48#8, 0x69#8, 0x49#8, 0x71#8, 0x51#8, 0x63#8]

/-- The value of a run of decimal digits (R84); a run with no digit counts as 1. -/
def countOf (digits : List Nat) : Nat := if digits = [] then 1 else digits.foldl (fun n d => 10 * n + d) 0

/-- The characters of one token: a run of digits, then the type code (R82). -/
def pieceChars (p : List Nat × TypeCode) : Bytes := p.1.map (fun d => BitVec.ofNat 8 (0x30 + d)) ++ [p.2.char]

/-- The token the characters of a piece stand for (R84, R85). -/
def pieceToken (p : List Nat × TypeCode) : Token := ⟨countOf p.1, p.2⟩

/-! ## Token programs -/

/-- `offset(TOKS, k) = size(first k tokens)` (R123). -/
def offsetOf (toks : List Token) (k : Nat) : Nat := programSize (toks.take k)

/-- The integers a type code accepts (R85); none for a float or a character code. -/
abbrev intInRange (code : TypeCode) (z : Int) : Prop :=
  match code with
  | .b => -128 ≤ z ∧ z ≤ 127
  | .B => 0 ≤ z ∧ z ≤ 255
  | .h => -32768 ≤ z ∧ z ≤ 32767
  | .H => 0 ≤ z ∧ z ≤ 65535
  | .i => -2 ^ 31 ≤ z ∧ z ≤ 2 ^ 31 - 1
  | .I => 0 ≤ z ∧ z ≤ 2 ^ 32 - 1
  | .q => -2 ^ 63 ≤ z ∧ z ≤ 2 ^ 63 - 1
  | .Q => 0 ≤ z ∧ z ≤ 2 ^ 64 - 1
  | .f => False
  | .d => False
  | .c => False

/-- The scalars a type code accepts (R152, R153). -/
abbrev scalarAccepted (code : TypeCode) (x : Scalar) : Prop :=
  match x with
  | .int z => intInRange code z
  | .f32 _ => code = .f
  | .f64 _ => code = .d
  | .char _ => code = .c

/-- The values a token accepts (R152, R154): the scalar kind for a count of 1; for an array a `Str` under `c`, a
`Bytes` under `B`, an `Arr` of accepted scalars under any other code, none of them longer than the count. -/
abbrev valueAccepted (t : Token) (v : Value) : Prop :=
  if t.count = 1 then
    match v with
    | .scalar x => scalarAccepted t.code x
    | .str _ => False
    | .bytes _ => False
    | .arr _ => False
  else
    match v with
    | .scalar _ => False
    | .str S => t.code = .c ∧ S.length ≤ t.count
    | .bytes S => t.code = .B ∧ S.length ≤ t.count
    | .arr L => t.code ≠ .c ∧ t.code ≠ .B ∧ L.length ≤ t.count ∧ ∀ x ∈ L, scalarAccepted t.code x

/-- Every field the mapping has is accepted by its token (R152); a field it lacks is no matter (R151). -/
abbrev mappingAccepted (map : Mapping) (toks : List Token) (names : List FieldName) : Prop :=
  ∀ e ∈ toks.zip names, ∀ v ∈ fieldValue map e.2, valueAccepted e.1 v

/-- The value a field reads back as after it was packed into zeros (R168): an absent field as the zero value of its
token, a short array padded with zero elements, a string cut at its first zero, anything else unchanged. -/
def canonical (t : Token) (v : Option Value) : Value :=
  match v with
  | none => zeroValue t
  | some (.scalar x) => .scalar x
  | some (.str S) => .str (untilZero S)
  | some (.bytes S) => .bytes (S ++ zeros (t.count - S.length))
  | some (.arr L) => .arr (L ++ List.replicate (t.count - L.length) (zeroScalar t.code))

/-- The mapping a packed mapping reads back as (R168). -/
def canonicalMapping (map : Mapping) (toks : List Token) (names : List FieldName) : Mapping :=
  (toks.zip names).map fun e => (e.2, canonical e.1 (fieldValue map e.2))

/-! ## The fields of a token, in the words of their rules -/

/-- An unsigned field (R141, R143, R145, R147): `Int(ULE(..))`, or the `Arr` of the same at `a + w*k`. -/
def unsignedField (w : Nat) (buf : Bytes) (a cnt : Nat) : Value :=
  if cnt = 1 then .scalar (.int (ule (slice buf a (a + w))))
  else .arr ((List.range cnt).map fun k => .int (ule (slice buf (a + w * k) (a + w * k + w))))

/-- A signed field (R140, R142, R144, R146): `Int(SLE(..))`, or the `Arr` of the same at `a + w*k`. -/
def signedField (w : Nat) (buf : Bytes) (a cnt : Nat) : Value :=
  if cnt = 1 then .scalar (.int (sext (8 * w) (ule (slice buf a (a + w)))))
  else .arr ((List.range cnt).map fun k => .int (sext (8 * w) (ule (slice buf (a + w * k) (a + w * k + w)))))

/-- A 4-byte float field (R138). -/
def float32Field (buf : Bytes) (a cnt : Nat) : Value :=
  if cnt = 1 then .scalar (.f32 (BitVec.ofNat 32 (ule (slice buf a (a + 4)))))
  else .arr ((List.range cnt).map fun k => .f32 (BitVec.ofNat 32 (ule (slice buf (a + 4 * k) (a + 4 * k + 4)))))

/-- An 8-byte float field (R139). -/
def float64Field (buf : Bytes) (a cnt : Nat) : Value :=
  if cnt = 1 then .scalar (.f64 (BitVec.ofNat 64 (ule (slice buf a (a + 8)))))
  else .arr ((List.range cnt).map fun k => .f64 (BitVec.ofNat 64 (ule (slice buf (a + 8 * k) (a + 8 * k + 8)))))

/-- The field of a token at offset `a`, in the words of its rule (R138 to R148). -/
def tokenField (code : TypeCode) (buf : Bytes) (a cnt : Nat) : Value :=
  match code with
  | .f => float32Field buf a cnt
  | .d => float64Field buf a cnt
  | .b => signedField 1 buf a cnt
  | .B => if cnt = 1 then .scalar (.int (byteAt buf a).toNat) else .bytes (slice buf a (a + cnt))
  | .h => signedField 2 buf a cnt
  | .H => unsignedField 2 buf a cnt
  | .i => signedField 4 buf a cnt
  | .I => unsignedField 4 buf a cnt
  | .q => signedField 8 buf a cnt
  | .Q => unsignedField 8 buf a cnt
  | .c => if cnt = 1 then .scalar (.char (byteAt buf a)) else .str ((slice buf a (a + cnt)).takeWhile (fun b => b ≠ 0))

/-- The mapping a complete unpack program reads (R122, R123, R130): token `k` at `offset(TOKS, k)`, with name `k`. -/
def mappingAt (toks : List Token) (names : List FieldName) (buf : Bytes) : Mapping :=
  toks.mapIdx fun k t => (names.getD k [], tokenField t.code buf (offsetOf toks k) t.count)

/-- The bytes a scalar is written as (R153): integers as `LE(w, z mod 2^(8w))`, patterns and characters as they
are. -/
def wireBytes (code : TypeCode) (x : Scalar) : Bytes :=
  match x with
  | .int z => le code.width (z % 2 ^ (8 * code.width)).toNat
  | .f32 u => le 4 u.toNat
  | .f64 u => le 8 u.toNat
  | .char b => [b]

/-- The bytes a value is written as (R153, R154), the unwritten tail of a short one left out. -/
def valueBytes (code : TypeCode) (v : Value) : Bytes :=
  match v with
  | .scalar x => wireBytes code x
  | .str S => S
  | .bytes S => S
  | .arr L => L.flatMap (wireBytes code)

/-- An unpack program after one token has read the value `v` (R36, R130). -/
def afterRead (r : UnpackRun) (size : Nat) (v : Value) : Run :=
  .unpack { r with m := r.m ++ [(r.names.getD r.ti [], v)], cur := r.cur + size, ti := r.ti + 1 }

/-- A pack program after one token has left the buffer `out` (R36, R150). -/
def afterWrite (r : PackRun) (size : Nat) (out : Bytes) : Run :=
  .pack { r with out := out, cur := r.cur + size, ti := r.ti + 1 }

/-! ## Candidate frames -/

/-- A frame of either version is well formed (R90, R91, R185). -/
def frameWf : Frame → Bool
  | .v1 fr => fr.wf
  | .v2 fr => fr.wf

/-- The bytes of a frame of either version. -/
def frameBytes : Frame → Bytes
  | .v1 fr => fr.bytes
  | .v2 fr => fr.bytes

/-- The header record of a frame (R216, R217). -/
def frameHeader : Frame → Header
  | .v1 fr => ⟨false, fr.len, none, none, fr.seq, fr.sys, fr.comp, fr.msgid.setWidth 24⟩
  | .v2 fr => ⟨true, fr.len, some fr.incompat, some fr.compat, fr.seq, fr.sys, fr.comp, fr.msgid⟩

/-- The transmitted payload of a frame. -/
def framePayload : Frame → Bytes
  | .v1 fr => fr.payload
  | .v2 fr => fr.payload

/-- The transmitted checksum of a frame (R221). -/
def frameTx : Frame → Crc
  | .v1 fr => fr.crc
  | .v2 fr => fr.crc

/-- The signature record of a frame (R218). -/
def frameSig : Frame → Option SigBlock
  | .v1 _ => none
  | .v2 fr => fr.sig

/-- The covered bytes of a frame (R94): from `len` through the end of the payload. -/
def coveredBytes : Frame → Bytes
  | .v1 fr => [fr.len, fr.seq, fr.sys, fr.comp, fr.msgid] ++ fr.payload
  | .v2 fr => [fr.len, fr.incompat, fr.compat, fr.seq, fr.sys, fr.comp] ++ le 3 fr.msgid.toNat ++ fr.payload

/-- The checksum of a frame under a seed (R94, R220): every covered byte from `0xFFFF`, then the seed step. -/
def frameChecksum (fr : Frame) (seed : Byte) : Crc := mix ((coveredBytes fr).foldl mix 0xFFFF#16) seed

/-- The payload length a frame declares. -/
def frameLen (fr : Frame) : Nat := (frameHeader fr).payloadLength.toNat

/-- A message without its signature record. -/
def withoutSig (m : Message) : Message := { m with signature := none }

/-- What is running, with the signature records of the messages emitted so far left out. -/
def runWithoutSig : Run → Run
  | .parse p => .parse { p with out := p.out.map withoutSig }
  | .idle => .idle
  | .unpack r => .unpack r
  | .pack r => .pack r

/-- How many candidate frames the four frame counters have counted (D8). -/
def framesCounted (s : State) : Nat := s.pkts + s.crcerr + s.unkmsg + s.parseerr

/-! ## Encoded frames -/

/-- The header record of the frame an encode request gives, with its `len` byte (R240, R242). -/
def requestHeader (req : EncodeRequest) (len : Byte) : Header :=
  { isV2 := req.isV2
    payloadLength := len
    incompatFlags :=
      if req.isV2 then some ((req.incompatFlags &&& 0xFE#8) ||| (if req.sign.isSome then 0x01#8 else 0x00#8)) else none
    compatFlags := if req.isV2 then some req.compatFlags else none
    sequence := req.sequence
    systemId := req.systemId
    componentId := req.componentId
    messageId := req.messageId }

/-- The header bytes of the frame an encode request gives, with its `len` byte (R236, R237, R240). -/
def requestHeaderBytes (req : EncodeRequest) (len : Byte) : Bytes :=
  if req.isV2 then
    [0xFD#8, len, (req.incompatFlags &&& 0xFE#8) ||| (if req.sign.isSome then 0x01#8 else 0x00#8), req.compatFlags,
      req.sequence, req.systemId, req.componentId] ++ le 3 req.messageId.toNat
  else [0xFE#8, len, req.sequence, req.systemId, req.componentId, BitVec.ofNat 8 req.messageId.toNat]

/-- Where truncation cuts a scratch buffer of `max` bytes (R234, R235): everything from `n` on is zero, the last byte
kept is not zero unless it is the only one, and one byte is kept unless there is none. -/
abbrev truncatedTo (scratch : Bytes) (max n : Nat) : Prop :=
  n ≤ max ∧ (1 ≤ max → 1 ≤ n) ∧ (∀ i, n ≤ i → i < max → byteAt scratch i = 0) ∧
    (2 ≤ n → byteAt scratch (n - 1) ≠ 0)

/-- The frame an encode request gives through its checksum (R236 to R238): the header with `len = n`, the payload
`P`, the checksum over both but for the marker, then the seed step. -/
def requestFrame (req : EncodeRequest) (seed : Byte) (P : Bytes) (n : Nat) : Bytes :=
  let H := requestHeaderBytes req (BitVec.ofNat 8 n)
  H ++ P ++ le 2 (mix ((H.tail ++ P).foldl mix 0xFFFF#16) seed).toNat

/-- The frame `G` with its signature block (R189, R239). -/
def withSigBlock (sg : Sign) (G : Bytes) : Bytes :=
  let blk := [sg.linkId] ++ le 6 (sg.timestamp % 2 ^ 48)
  G ++ blk ++ (Config.sigHash sg.key (G ++ blk)).bytes

/-- The signature record of the frame `G` an encode request gives (R189, R242): the tag is the hash of everything
before it. -/
def requestSig (req : EncodeRequest) (G : Bytes) : Option SigBlock :=
  if req.isV2 then
    req.sign.map fun sg =>
      ⟨sg.linkId, BitVec.ofNat 48 sg.timestamp, Config.sigHash sg.key (G.take (G.length - 6))⟩
  else none

/-! ## Whole-machine terms -/

/-- The host commands, the rows of format CMD (R81). -/
def isCommand : Instr → Bool
  | .reset => true
  | .rdcnt _ => true
  | .crcInit => true
  | .crcStep _ => true
  | .crcSeed _ => true
  | .crcBuf _ => true
  | .crcRd => true
  | .crcFrame _ _ => true
  | .fmtTok _ => true
  | .unpack _ _ _ => true
  | .pack _ _ _ _ _ => true
  | .parse _ => true
  | .encode _ => true
  | .buildDefault _ => true
  | .uf _ | .ud _ | .ub _ | .uB _ | .uh _ | .uH _ | .ui _ | .uI _ | .uq _ | .uQ _ | .uc _ => false
  | .pf _ | .pd _ | .pb _ | .pB _ | .ph _ | .pH _ | .pi _ | .pI _ | .pq _ | .pQ _ | .pc _ => false
  | .frameV1 _ | .frameV2 _ => false

/-- The commands that write the register CRC (R20, R29). -/
def writesCrc : Instr → Bool
  | .reset => true
  | .crcInit => true
  | .crcStep _ => true
  | .crcSeed _ => true
  | .crcBuf _ => true
  | .crcFrame _ _ => true
  | .rdcnt _ | .crcRd | .fmtTok _ | .unpack _ _ _ | .pack _ _ _ _ _ | .parse _ | .encode _ | .buildDefault _ => false
  | .uf _ | .ud _ | .ub _ | .uB _ | .uh _ | .uH _ | .ui _ | .uI _ | .uq _ | .uQ _ | .uc _ => false
  | .pf _ | .pd _ | .pb _ | .pB _ | .ph _ | .pH _ | .pi _ | .pI _ | .pq _ | .pQ _ | .pc _ => false
  | .frameV1 _ | .frameV2 _ => false

/-- The commands that write RESID, the counters and FAULT (R20). -/
def writesParser : Instr → Bool
  | .reset => true
  | .parse _ => true
  | .crcInit | .crcStep _ | .crcSeed _ | .crcBuf _ | .crcFrame _ _ => false
  | .rdcnt _ | .crcRd | .fmtTok _ | .unpack _ _ _ | .pack _ _ _ _ _ | .encode _ | .buildDefault _ => false
  | .uf _ | .ud _ | .ub _ | .uB _ | .uh _ | .uH _ | .ui _ | .uI _ | .uq _ | .uQ _ | .uc _ => false
  | .pf _ | .pd _ | .pb _ | .pB _ | .ph _ | .pH _ | .pi _ | .pI _ | .pq _ | .pQ _ | .pc _ => false
  | .frameV1 _ | .frameV2 _ => false

/-- The mixing step written on naturals, as R171 writes it. -/
def mixNat (c d : Nat) : Nat :=
  let t1 := (d ^^^ (c &&& 0xFF)) &&& 0xFF
  let t2 := (t1 ^^^ (t1 <<< 4)) &&& 0xFF
  ((c >>> 8) ^^^ (t2 <<< 8) ^^^ (t2 <<< 3) ^^^ (t2 >>> 4)) &&& 0xFFFF

/-- One pass of the bit-serial form of R172 for the data bit `k`. -/
def serialBit (d : Byte) (c : Crc) (k : Nat) : Crc :=
  if (c ^^^ (d >>> k).setWidth 16).getLsbD 0 then (c >>> 1) ^^^ 0x8408#16 else c >>> 1

/-- The bit-serial form of the mixing step (R172): the bits 0 to 7 of the data byte in turn. -/
def serialMix (c : Crc) (d : Byte) : Crc := (List.range 8).foldl (serialBit d) c

end Sys2Proof.Safety
end

