-- ==== Sys2Proof/Certificates/Slice0/Obligations.lean ====
section
/-! DEFINITION. The statements about the block. Each docstring names the rules of spec/ the statement formalises, or
says that it rests on a choice and whose. -/

section

open Sys2Proof Sys2Proof.Machine Sys2Proof.Safety

/-! ## Reset and the system commands -/

/-- RESET of an idle instance answers "none" and puts every persistent register at its reset value, whatever it held,
a fault included; a fresh instance holds the same values. The values other than `0xFFFF` are the spec's own decision
D6 (R45, R250, R291). -/
def Obligations.ResetRestoresEveryRegister : Prop :=
  (∀ s : State, s.run = .idle →
    exec .reset s = .next { s with
      resid := [], trash := 0, crcerr := 0, unkmsg := 0, parseerr := 0, pkts := 0, fault := none, crc := 0xFFFF#16
      rsp := s.rsp ++ [.done] }) ∧
  (State.reset.resid = [] ∧ State.reset.trash = 0 ∧ State.reset.crcerr = 0 ∧ State.reset.unkmsg = 0 ∧
    State.reset.parseerr = 0 ∧ State.reset.pkts = 0 ∧ State.reset.fault = none ∧ State.reset.crc = 0xFFFF#16 ∧
    State.reset.run = .idle)

/-- RDCNT answers the counter its selector names and changes nothing; while the fault is set it is refused
(R251; the selector numbers and the refusal are the spec's decisions D3, D38). -/
def Obligations.RdcntReadsOneCounter : Prop :=
  ∀ s : State, s.run = .idle →
    (s.fault = none →
      exec (.rdcnt .trash) s = .next { s with rsp := s.rsp ++ [.nat s.trash] } ∧
      exec (.rdcnt .crcerr) s = .next { s with rsp := s.rsp ++ [.nat s.crcerr] } ∧
      exec (.rdcnt .unkmsg) s = .next { s with rsp := s.rsp ++ [.nat s.unkmsg] } ∧
      exec (.rdcnt .parseerr) s = .next { s with rsp := s.rsp ++ [.nat s.parseerr] } ∧
      exec (.rdcnt .pkts) s = .next { s with rsp := s.rsp ++ [.nat s.pkts] }) ∧
    (s.fault ≠ none → ∀ k, exec (.rdcnt k) s = .next { s with rsp := s.rsp ++ [.error .eFaulted] })

/-- BUILD_DEFAULT answers the id and one zero value per field: the mapping UNPACK reads from zeros; with an unknown
id or a defective descriptor it answers the error. Nothing else changes (R253, R254; the zero values are the spec's
decision D30). -/
def Obligations.BuildDefaultIsTheMappingOfZeros : Prop :=
  ∀ (s : State) (id : MsgId), s.run = .idle →
    (lookupIn s.registry id = none →
      exec (.buildDefault id) s = .next { s with rsp := s.rsp ++ [.error .eUnknownId] }) ∧
    (∀ d, lookupIn s.registry id = some d →
      (∀ e, tokenize d.wireFormat = .error e →
        exec (.buildDefault id) s = .next { s with rsp := s.rsp ++ [.error .eFormat] }) ∧
      (∀ toks, tokenize d.wireFormat = .ok toks →
        ((toks.length ≠ d.fields.length ∨ ¬ d.fields.Nodup) →
          exec (.buildDefault id) s = .next { s with rsp := s.rsp ++ [.error .eMismatch] }) ∧
        (toks.length = d.fields.length → d.fields.Nodup →
          exec (.buildDefault id) s =
            .next { s with rsp := s.rsp ++ [.skeleton id (d.fields.zip (toks.map zeroValue))] } ∧
          ∀ n, programSize toks ≤ n →
            exec (.unpack (zeros n) d.wireFormat d.fields) s =
              .next { s with rsp := s.rsp ++ [.mapping (d.fields.zip (toks.map zeroValue))] })))

/-! ## The Checksum Engine -/

/-- R173 whole: the code, the effect on CRC and on nothing else, that it is idempotent, and what CRC.RD then answers
(the code and the register are the spec's decisions D3, D34). -/
def Obligations.CrcInitLoadsFFFF : Prop :=
  (∀ ops, decodeCommand ⟨0x10#8, ops⟩ = .ok .crcInit) ∧
  ∀ s : State, s.run = .idle →
    ∃ t, exec .crcInit s = .next t ∧ t = { s with crc := 0xFFFF#16, rsp := s.rsp ++ [.done] } ∧
      exec .crcInit t = .next { t with rsp := t.rsp ++ [.done] } ∧
      exec .crcRd t = .next { t with rsp := t.rsp ++ [.word 0xFFFF#16] }

/-- R177 whole: the code, the response, that nothing else changes, and the transmission order of the 16-bit value (the
code and the register are the spec's decisions D3, D34). -/
def Obligations.CrcRdReadsCrc : Prop :=
  (∀ ops, decodeCommand ⟨0x14#8, ops⟩ = .ok .crcRd) ∧
  (∀ s : State, s.run = .idle → exec .crcRd s = .next { s with rsp := s.rsp ++ [.word s.crc] }) ∧
  (∀ c : Crc, le 2 c.toNat = [c.setWidth 8, (c >>> 8).setWidth 8])

/-- CRC.STEP, CRC.SEED, CRC.BUF and CRC.FRAME write CRC, with the mixing step of R171 as often as their rules say, and
change nothing else (R174, R175, R176, R178; the formula is the spec's general knowledge G1). -/
def Obligations.CrcCommandsMixIntoCrc : Prop :=
  ∀ s : State, s.run = .idle →
    (∀ d, exec (.crcStep d) s =
      .next { s with crc := BitVec.ofNat 16 (mixNat s.crc.toNat d.toNat), rsp := s.rsp ++ [.done] }) ∧
    (∀ seed, exec (.crcSeed seed) s =
      .next { s with crc := BitVec.ofNat 16 (mixNat s.crc.toNat seed.toNat), rsp := s.rsp ++ [.done] }) ∧
    exec (.crcBuf []) s = .next { s with rsp := s.rsp ++ [.done] } ∧
    (∀ B b, ∃ c, exec (.crcBuf B) s = .next { s with crc := c, rsp := s.rsp ++ [.done] } ∧
      exec (.crcBuf (B ++ [b])) s =
        .next { s with crc := BitVec.ofNat 16 (mixNat c.toNat b.toNat), rsp := s.rsp ++ [.done] }) ∧
    (∀ B seed, ∃ c, exec (.crcBuf B) { s with crc := 0xFFFF#16 } =
        .next { s with crc := c, rsp := s.rsp ++ [.done] } ∧
      exec (.crcFrame B seed) s =
        .next { s with crc := BitVec.ofNat 16 (mixNat c.toNat seed.toNat)
                       rsp := s.rsp ++ [.word (BitVec.ofNat 16 (mixNat c.toNat seed.toNat))] })

/-- The bit-serial form of R172: the mixing step is the eight passes of the shift register, for every accumulator and
every byte (the polynomial is the spec's general knowledge G1). -/
def Obligations.MixIsTheShiftRegister : Prop := ∀ (c : Crc) (d : Byte), mix c d = serialMix c d

/-- R181 and R182, on CRC.FRAME: two covered sequences of one length that differ in exactly one byte leave different
checksums under one seed, and two seeds leave different checksums after one sequence (both are derived by the spec
from R172). -/
def Obligations.ChecksumDetectsOneByteAndTheSeed : Prop :=
  ∀ (s : State), s.run = .idle →
    (∀ (A B : Bytes) (a b seed : Byte), a ≠ b →
      ∃ t u, exec (.crcFrame (A ++ a :: B) seed) s = .next t ∧ exec (.crcFrame (A ++ b :: B) seed) s = .next u ∧
        t.crc ≠ u.crc) ∧
    (∀ (A : Bytes) (seed seed' : Byte), seed ≠ seed' →
      ∃ t u, exec (.crcFrame A seed) s = .next t ∧ exec (.crcFrame A seed') s = .next u ∧ t.crc ≠ u.crc)

/-! ## The tokenizer -/

/-- FMT.TOK answers the tokens of every string of the grammar, in string order, a digit run read as a decimal numeral
with leading zeros allowed and an absent one as 1; nothing else changes (R82, R84, R111, R121, R122; leading zeros are
the spec's decision D10). -/
def Obligations.FmtTokReadsEveryProgram : Prop :=
  ∀ (s : State) (ps : List (List Nat × TypeCode)), s.run = .idle →
    (∀ p ∈ ps, (∀ d ∈ p.1, d ≤ 9) ∧ 1 ≤ countOf p.1) →
    exec (.fmtTok (ps.flatMap pieceChars)) s = .next { s with rsp := s.rsp ++ [.tokens (ps.map pieceToken)] }

/-- R124 (and R100): a character that is neither a digit nor a type code ends the tokenizer with `E_FORMAT` wherever it
stands and whatever follows it; it is the cause where nothing before it is one. -/
def Obligations.UnrecognizedCharacterIsFormatError : Prop :=
  ∀ (s : State) (before after : Bytes) (ch : Byte), s.run = .idle → ¬ isDigit ch → ch ∉ codeChars →
    exec (.fmtTok (before ++ ch :: after)) s = .next { s with rsp := s.rsp ++ [.error .eFormat] } ∧
    ((tokenize before = .error .dangling ∨ ∃ toks, tokenize before = .ok toks) →
      tokenize (before ++ ch :: after) = .error (.unrecognized ch))

/-- R127 (and R101): a string that ends in a digit gets `E_FORMAT`, for its dangling digits where nothing earlier is a
cause; and digits dangle at the end of a string only. -/
def Obligations.DanglingDigitsAreFormatError : Prop :=
  (∀ (s : State) (before : Bytes) (ch : Byte), s.run = .idle → isDigit ch →
    exec (.fmtTok (before ++ [ch])) s = .next { s with rsp := s.rsp ++ [.error .eFormat] } ∧
    ((tokenize before = .error .dangling ∨ ∃ toks, tokenize before = .ok toks) →
      tokenize (before ++ [ch]) = .error .dangling)) ∧
  (∀ fmt, tokenize fmt = .error .dangling → ∃ before ch, fmt = before ++ [ch] ∧ isDigit ch)

/-- A count that evaluates to 0 gets `E_FORMAT` at the type code that follows it (R102, R125: the spec's decision
D9). -/
def Obligations.ZeroCountIsFormatError : Prop :=
  ∀ (s : State) (before after : Bytes) (toks : List Token) (n : Nat) (code : TypeCode), s.run = .idle →
    tokenize before = .ok toks →
    exec (.fmtTok (before ++ List.replicate (n + 1) 0x30#8 ++ code.char :: after)) s =
      .next { s with rsp := s.rsp ++ [.error .eFormat] } ∧
    tokenize (before ++ List.replicate (n + 1) 0x30#8 ++ code.char :: after) = .error .zeroCount

/-! ## UNPACK and the unpack microcodelets -/

/-- UNPACK completes whenever the string tokenizes, the counts agree, the names are distinct and the buffer is long
enough: every field is read at its offset in the way of its rule, bytes after the last field make no difference, and
nothing else changes (R130, R137, R149; that more bytes are no error is the spec's decision D15). -/
def Obligations.UnpackReadsEveryFieldAtItsOffset : Prop :=
  ∀ (s : State) (buf fmt : Bytes) (names : List FieldName) (toks : List Token), s.run = .idle →
    tokenize fmt = .ok toks → toks.length = names.length → names.Nodup → programSize toks ≤ buf.length →
    exec (.unpack buf fmt names) s = .next { s with rsp := s.rsp ++ [.mapping (mappingAt toks names buf)] } ∧
    ∀ tail, exec (.unpack (buf ++ tail) fmt names) s = exec (.unpack buf fmt names) s

/-- Where UNPACK does not complete: `E_FORMAT`, then `E_MISMATCH`, then `E_DECODE`, whatever the buffer holds, and
nothing else changes (R130, R149, R272; the repeated name and `E_DECODE` are the spec's decisions D31, D16). -/
def Obligations.UnpackErrorsInOrder : Prop :=
  ∀ (s : State) (buf fmt : Bytes) (names : List FieldName), s.run = .idle →
    (∀ e, tokenize fmt = .error e →
      exec (.unpack buf fmt names) s = .next { s with rsp := s.rsp ++ [.error .eFormat] }) ∧
    (∀ toks, tokenize fmt = .ok toks →
      ((toks.length ≠ names.length ∨ ¬ names.Nodup) →
        exec (.unpack buf fmt names) s = .next { s with rsp := s.rsp ++ [.error .eMismatch] }) ∧
      (toks.length = names.length → names.Nodup → buf.length < programSize toks →
        exec (.unpack buf fmt names) s = .next { s with rsp := s.rsp ++ [.error .eDecode] }))

/-- R141, R143, R145, R147: `U.B`, `U.H`, `U.I`, `U.Q` are the unpack tokens of the characters `B`, `H`, `I`, `Q` (`1B`
is the scalar `B`), and as the token at `TI` each reads its field at `CUR`, puts it at the end of the mapping under its
name, and advances `CUR` by the field and `TI` by 1; nothing else changes. -/
def Obligations.UnsignedTokensReadTheirField : Prop :=
  (∀ rest : Bytes,
    decodeToken .unpack (0x42#8 :: rest) = .ok (.uB 1, rest) ∧
    decodeToken .unpack (0x31#8 :: 0x42#8 :: rest) = .ok (.uB 1, rest) ∧
    decodeToken .unpack (0x48#8 :: rest) = .ok (.uH 1, rest) ∧
    decodeToken .unpack (0x49#8 :: rest) = .ok (.uI 1, rest) ∧
    decodeToken .unpack (0x51#8 :: rest) = .ok (.uQ 1, rest)) ∧
  ∀ (s : State) (r : UnpackRun) (cnt : Nat), s.run = .unpack r → 1 ≤ cnt →
    (r.cur + cnt ≤ r.buf.length →
      exec (.uB cnt) s = .next { s with run := afterRead r cnt (tokenField .B r.buf r.cur cnt) }) ∧
    (r.cur + cnt * 2 ≤ r.buf.length →
      exec (.uH cnt) s = .next { s with run := afterRead r (cnt * 2) (unsignedField 2 r.buf r.cur cnt) }) ∧
    (r.cur + cnt * 4 ≤ r.buf.length →
      exec (.uI cnt) s = .next { s with run := afterRead r (cnt * 4) (unsignedField 4 r.buf r.cur cnt) }) ∧
    (r.cur + cnt * 8 ≤ r.buf.length →
      exec (.uQ cnt) s = .next { s with run := afterRead r (cnt * 8) (unsignedField 8 r.buf r.cur cnt) })

/-- `U.b`, `U.h`, `U.i`, `U.q` read their field in two's complement, `U.f`, `U.d` bit patterns, `U.c` a character or the
string before the first zero byte; the cursors advance by the whole field and nothing else changes (R138 to R140, R142,
R144, R146, R148; two's complement is the spec's general knowledge G2, patterns, byte strings and the scalar character
its decisions D14, D13, D12). -/
def Obligations.SignedFloatAndCharTokensReadTheirField : Prop :=
  ∀ (s : State) (r : UnpackRun) (cnt : Nat), s.run = .unpack r → 1 ≤ cnt →
    (r.cur + cnt ≤ r.buf.length →
      exec (.ub cnt) s = .next { s with run := afterRead r cnt (signedField 1 r.buf r.cur cnt) }) ∧
    (r.cur + cnt * 2 ≤ r.buf.length →
      exec (.uh cnt) s = .next { s with run := afterRead r (cnt * 2) (signedField 2 r.buf r.cur cnt) }) ∧
    (r.cur + cnt * 4 ≤ r.buf.length →
      exec (.ui cnt) s = .next { s with run := afterRead r (cnt * 4) (signedField 4 r.buf r.cur cnt) }) ∧
    (r.cur + cnt * 8 ≤ r.buf.length →
      exec (.uq cnt) s = .next { s with run := afterRead r (cnt * 8) (signedField 8 r.buf r.cur cnt) }) ∧
    (r.cur + cnt * 4 ≤ r.buf.length →
      exec (.uf cnt) s = .next { s with run := afterRead r (cnt * 4) (float32Field r.buf r.cur cnt) }) ∧
    (r.cur + cnt * 8 ≤ r.buf.length →
      exec (.ud cnt) s = .next { s with run := afterRead r (cnt * 8) (float64Field r.buf r.cur cnt) }) ∧
    (r.cur + cnt ≤ r.buf.length →
      exec (.uc cnt) s = .next { s with run := afterRead r cnt (tokenField .c r.buf r.cur cnt) })

/-- A token whose field would pass the end of the buffer does nothing: under UNPACK and PACK it ends the command with
its error response, inside frame decode it becomes the verdict `V_DECODE` and the PARSE goes on (R136, R155, R224: the
spec's decisions D16, D19, D7). -/
def Obligations.TokenPastTheEndIsAnError : Prop :=
  ∀ (s : State) (t : Token),
    (∀ r, s.run = .unpack r → r.buf.length < r.cur + t.count * t.code.width →
      (r.caller = .host →
        exec (t.instr .unpack) s = .next { s with rsp := s.rsp ++ [.error .eDecode], run := .idle }) ∧
      (∀ p hdr sig, r.caller = .frame p hdr sig →
        exec (t.instr .unpack) s = .next { s with parseerr := s.parseerr + 1, run := .parse p })) ∧
    (∀ r, s.run = .pack r → r.out.length < r.cur + t.count * t.code.width →
      exec (t.instr .pack) s = .next { s with rsp := s.rsp ++ [.error .eBounds], run := .idle })

/-! ## PACK and the pack microcodelets -/

/-- `P.f`, `P.d`, `P.b`, `P.B`, `P.h`, `P.H`, `P.i`, `P.I`, `P.q`, `P.Q`, `P.c` with count 1: a scalar of the code's kind
and range is written little-endian at `CUR`, the cursors advance and nothing else changes; any other value ends the
command with `E_VALUE` (R152, R153, R157 to R167; the refusal is the spec's decision D17). -/
def Obligations.PackScalarTokensWriteTheirField : Prop :=
  ∀ (s : State) (r : PackRun) (code : TypeCode) (v : Value), s.run = .pack r →
    r.cur + code.width ≤ r.out.length → fieldValue r.map (r.names.getD r.ti []) = some v →
    (∀ x, v = .scalar x → scalarAccepted code x →
      exec (Token.instr .pack ⟨1, code⟩) s =
        .next { s with run := afterWrite r code.width (memWrite r.out r.cur (wireBytes code x)) }) ∧
    (¬ valueAccepted ⟨1, code⟩ v →
      exec (Token.instr .pack ⟨1, code⟩) s = .next { s with rsp := s.rsp ++ [.error .eValue], run := .idle })

/-- The same eleven with a count above 1: a string under `c`, a byte sequence under `B`, a list of accepted scalars
under any other code, none longer than the count, is written element after element from `CUR`, the rest of the field
keeps what it held, and `CUR` moves past the whole field; any other value gets `E_VALUE` (R154, R157 to R167; short
and long values are the spec's decisions D18, D17). -/
def Obligations.PackArrayTokensWriteTheirField : Prop :=
  ∀ (s : State) (r : PackRun) (code : TypeCode) (cnt : Nat) (v : Value), s.run = .pack r → 2 ≤ cnt →
    r.cur + cnt * code.width ≤ r.out.length → fieldValue r.map (r.names.getD r.ti []) = some v →
    (valueAccepted ⟨cnt, code⟩ v →
      exec (Token.instr .pack ⟨cnt, code⟩) s =
        .next { s with run := afterWrite r (cnt * code.width) (memWrite r.out r.cur (valueBytes code v)) }) ∧
    (¬ valueAccepted ⟨cnt, code⟩ v →
      exec (Token.instr .pack ⟨cnt, code⟩) s = .next { s with rsp := s.rsp ++ [.error .eValue], run := .idle })

/-- R151: for an absent value every pack token advances the cursor without writing; the bound is tested all the same
(that passing the end is `E_BOUNDS` is the spec's decision D19, R155). -/
def Obligations.AbsentValueAdvancesWithoutWriting : Prop :=
  ∀ (s : State) (r : PackRun) (t : Token), s.run = .pack r → fieldValue r.map (r.names.getD r.ti []) = none →
    (r.cur + t.count * t.code.width ≤ r.out.length →
      exec (t.instr .pack) s = .next { s with run := afterWrite r (t.count * t.code.width) r.out }) ∧
    (r.out.length < r.cur + t.count * t.code.width →
      exec (t.instr .pack) s = .next { s with rsp := s.rsp ++ [.error .eBounds], run := .idle })

/-- What a pack token leaves alone: the length of the buffer and every byte outside `[CUR, CUR + cnt*w)` (42_pack.md
section 3; R56, R59). -/
def Obligations.PackTokenWritesOnlyItsField : Prop :=
  ∀ (s t : State) (r q : PackRun) (tok : Token), s.run = .pack r → exec (tok.instr .pack) s = .next t →
    t.run = .pack q →
    q.out.length = r.out.length ∧
    ∀ a, (a < r.cur ∨ r.cur + tok.count * tok.code.width ≤ a) → byteAt q.out a = byteAt r.out a

/-- PACK completes whenever the string tokenizes, the counts agree, the names are distinct, every value present is
accepted and the fields fit: each value stands at its field's offset, and every other byte is the operand buffer's; no
register changes (R150, R154, R169; D17 to D19 and D31 are the spec's decisions). -/
def Obligations.PackWritesEveryFieldAtItsOffset : Prop :=
  ∀ (s : State) (map : Mapping) (fmt : Bytes) (names : List FieldName) (buf : Bytes) (off : Nat) (toks : List Token),
    s.run = .idle → tokenize fmt = .ok toks → toks.length = names.length → names.Nodup →
    mappingAccepted map toks names → off + programSize toks ≤ buf.length →
    ∃ out, exec (.pack map fmt names buf off) s =
        .next { s with rsp := s.rsp ++ [.packed out (off + programSize toks)] } ∧
      out.length = buf.length ∧
      (∀ a, (a < off ∨ off + programSize toks ≤ a) → byteAt out a = byteAt buf a) ∧
      ∀ k t name, toks[k]? = some t → names[k]? = some name →
        let a := off + offsetOf toks k
        let S := match fieldValue map name with
          | none => []
          | some v => valueBytes t.code v
        slice out a (a + S.length) = S ∧ ∀ j, S.length ≤ j → j < t.size → byteAt out (a + j) = byteAt buf (a + j)

/-- Where PACK does not complete: `E_FORMAT`, then `E_MISMATCH`, then the error of the first token that has one,
`E_BOUNDS` before `E_VALUE`; no buffer is returned and nothing else changes (R150, R156, R272; the refusals are the
spec's decisions D17, D19, D31). -/
def Obligations.PackErrorsInOrder : Prop :=
  ∀ (s : State) (map : Mapping) (fmt : Bytes) (names : List FieldName) (buf : Bytes) (off : Nat), s.run = .idle →
    (∀ e, tokenize fmt = .error e →
      exec (.pack map fmt names buf off) s = .next { s with rsp := s.rsp ++ [.error .eFormat] }) ∧
    (∀ toks, tokenize fmt = .ok toks →
      ((toks.length ≠ names.length ∨ ¬ names.Nodup) →
        exec (.pack map fmt names buf off) s = .next { s with rsp := s.rsp ++ [.error .eMismatch] }) ∧
      (toks.length = names.length → names.Nodup →
        ∀ k t name, toks[k]? = some t → names[k]? = some name →
          mappingAccepted map (toks.take k) (names.take k) → (k = 0 ∨ off + offsetOf toks k ≤ buf.length) →
          (buf.length < off + offsetOf toks (k + 1) →
            exec (.pack map fmt names buf off) s = .next { s with rsp := s.rsp ++ [.error .eBounds] }) ∧
          (off + offsetOf toks (k + 1) ≤ buf.length → (∃ v, fieldValue map name = some v ∧ ¬ valueAccepted t v) →
            exec (.pack map fmt names buf off) s = .next { s with rsp := s.rsp ++ [.error .eValue] })))

/-- R168: what PACK writes into zeros, UNPACK reads back, every value made canonical (derived by the spec from its
rules). -/
def Obligations.PackUnpackRoundTrip : Prop :=
  ∀ (s : State) (map : Mapping) (fmt : Bytes) (names : List FieldName) (n : Nat) (toks : List Token),
    s.run = .idle → tokenize fmt = .ok toks → toks.length = names.length → names.Nodup →
    mappingAccepted map toks names → programSize toks ≤ n →
    ∃ out, exec (.pack map fmt names (zeros n) 0) s =
        .next { s with rsp := s.rsp ++ [.packed out (programSize toks)] } ∧
      exec (.unpack out fmt names) s = .next { s with rsp := s.rsp ++ [.mapping (canonicalMapping map toks names)] }

/-! ## Single-frame decode -/

/-- R219: a candidate frame whose id has no descriptor moves `UNKMSG` by 1 and nothing else, whatever its checksum; the
PARSE goes on. -/
def Obligations.UnknownIdIsCountedAndDropped : Prop :=
  ∀ (s : State) (p : ParseRun) (fr : Frame), s.run = .parse p →
    lookupIn s.registry (frameHeader fr).messageId = none →
    exec fr.instr s = .next { s with unkmsg := s.unkmsg + 1 }

/-- R220, R221: a frame whose transmitted checksum is not the one recomputed over the covered bytes and the seed moves
`CRCERR` by 1, and the PARSE goes on; but for the transient `ACC`, nothing else changes. The transmitted checksum is
the two bytes after the payload, low byte first (the mixing formula is the spec's general knowledge G1, the transient
its decision D34). -/
def Obligations.ChecksumMismatchIsCountedAndDropped : Prop :=
  (∀ (s : State) (p : ParseRun) (fr : Frame) (d : Descriptor), s.run = .parse p → frameWf fr = true →
    lookupIn s.registry (frameHeader fr).messageId = some d → frameChecksum fr d.crcExtra ≠ frameTx fr →
    exec fr.instr s =
      .next { s with crcerr := s.crcerr + 1, run := .parse { p with acc := frameChecksum fr d.crcExtra } }) ∧
  (∀ fr : Frame, frameWf fr = true →
    let hl := if (frameHeader fr).isV2 then 10 else 6
    (frameTx fr).toNat = (byteAt (frameBytes fr) (hl + frameLen fr)).toNat +
      256 * (byteAt (frameBytes fr) (hl + frameLen fr + 1)).toNat)

/-- FRAME.V1 and FRAME.V2: a frame with a registered id, the right checksum and a descriptor whose fields fit is
emitted, once on `OUT` and once on the notification channel, with its header record, the fields of the zero-padded
payload and its signature record, and `PKTS` moves by 1; nothing else changes (R215 to R218, R222, R223, R225, R275;
padding, `PKTS` and the channel are the spec's decisions D23, D28, D8, D33). -/
def Obligations.ValidFrameIsEmitted : Prop :=
  ∀ (s : State) (p : ParseRun) (fr : Frame) (d : Descriptor) (toks : List Token), s.run = .parse p →
    frameWf fr = true → lookupIn s.registry (frameHeader fr).messageId = some d →
    frameChecksum fr d.crcExtra = frameTx fr → tokenize d.wireFormat = .ok toks → toks.length = d.fields.length →
    d.fields.Nodup → programSize toks ≤ max (frameLen fr) d.maxPayloadLen →
    let m : Message :=
      ⟨frameHeader fr, mappingAt toks d.fields (framePayload fr ++ zeros (d.maxPayloadLen - frameLen fr)), frameSig fr⟩
    exec fr.instr s = .next { s with
      pkts := s.pkts + 1
      msg := s.msg ++ [m]
      run := .parse { p with acc := frameChecksum fr d.crcExtra, out := p.out ++ [m] } }

/-- A frame accepted so far whose padded payload is shorter than its descriptor's fields moves `PARSEERR` by 1, and the
PARSE goes on (R224: the spec's decision D7). -/
def Obligations.ShortPayloadIsCountedAndDropped : Prop :=
  ∀ (s : State) (p : ParseRun) (fr : Frame) (d : Descriptor) (toks : List Token), s.run = .parse p →
    frameWf fr = true → lookupIn s.registry (frameHeader fr).messageId = some d →
    frameChecksum fr d.crcExtra = frameTx fr → tokenize d.wireFormat = .ok toks → toks.length = d.fields.length →
    d.fields.Nodup → max (frameLen fr) d.maxPayloadLen < programSize toks →
    exec fr.instr s =
      .next { s with parseerr := s.parseerr + 1, run := .parse { p with acc := frameChecksum fr d.crcExtra } }

/-- A frame accepted so far whose descriptor is defective takes the fault: FAULT is set, the PARSE ends with the fault
response in place of `OUT`, the messages delivered stay delivered, and CRC and the Registry are as before; RESID stays
within its bound and the counters are free (R228, R270: the spec's decision D24; the response's information is the
model's reading, notes/assumptions/12.md). -/
def Obligations.DefectiveDescriptorTakesTheFault : Prop :=
  ∀ (s : State) (p : ParseRun) (fr : Frame) (d : Descriptor) (cause : ErrorCode), s.run = .parse p →
    frameWf fr = true → lookupIn s.registry (frameHeader fr).messageId = some d →
    frameChecksum fr d.crcExtra = frameTx fr →
    (cause = .eFormat ∧ (∃ e, tokenize d.wireFormat = .error e) ∨
      cause = .eMismatch ∧ ∃ toks, tokenize d.wireFormat = .ok toks ∧
        (toks.length ≠ d.fields.length ∨ ¬ d.fields.Nodup)) →
    ∃ t, exec fr.instr s = .next t ∧ t.fault = some .fFormat ∧ t.run = .idle ∧
      t.rsp = s.rsp ++ [.fault .fFormat (frameHeader fr).messageId cause] ∧ t.msg = s.msg ∧ t.crc = s.crc ∧
      t.cmd = s.cmd ∧ t.registry = s.registry ∧ t.resid.length ≤ 279

/-- R226: with a Registry free of defects, one candidate frame moves exactly one of the four frame counters, by exactly
1; TRASH, RESID, FAULT, CRC and the channels CMD and RSP are as before (R226, R229, derived by the spec from R215). -/
def Obligations.EachFrameMovesOneCounter : Prop :=
  ∀ (s : State) (p : ParseRun) (fr : Frame), s.run = .parse p → registrySound s.registry →
    ∃ t, exec fr.instr s = .next t ∧ framesCounted t = framesCounted s + 1 ∧
      s.pkts ≤ t.pkts ∧ s.crcerr ≤ t.crcerr ∧ s.unkmsg ≤ t.unkmsg ∧ s.parseerr ≤ t.parseerr ∧
      t.trash = s.trash ∧ t.resid = s.resid ∧ t.fault = s.fault ∧ t.crc = s.crc ∧ t.cmd = s.cmd ∧ t.rsp = s.rsp ∧
      t.registry = s.registry ∧ t.free = s.free ∧
      ∃ q, t.run = .parse q ∧ q.w = p.w ∧ q.sc = p.sc

/-- No verification on decode (R188): two v2 frames that differ in their signature blocks only have the same effect on
every register, and emit the same messages but for the signature records. -/
def Obligations.SignatureIsNotVerified : Prop :=
  ∀ (s : State) (p : ParseRun) (fr : FrameV2) (b b' : SigBlock), s.run = .parse p →
    FrameV2.wf { fr with sig := some b } = true →
    ∃ t t', exec (.frameV2 { fr with sig := some b }) s = .next t ∧
      exec (.frameV2 { fr with sig := some b' }) s = .next t' ∧
      t' = { t with msg := t'.msg, run := t'.run } ∧
      t'.msg.map withoutSig = t.msg.map withoutSig ∧ runWithoutSig t'.run = runWithoutSig t.run

/-! ## PARSE -/

/-- R198, R199: at every point of a PARSE a byte that is neither marker is counted and consumed, and the scan that
reaches the end of `W` keeps no residual and ends the command; so a PARSE over non-marker bytes alone counts each of
them and answers no message. -/
def Obligations.ScanCountsTrash : Prop :=
  (∀ (s : State) (p : ParseRun), s.run = .parse p →
    (p.sc < p.w.length → byteAt p.w p.sc ≠ 0xFE#8 → byteAt p.w p.sc ≠ 0xFD#8 →
      step s = .next { s with trash := s.trash + 1, run := .parse { p with sc := p.sc + 1 } }) ∧
    (p.sc = p.w.length → step s = .next { s with resid := [], rsp := s.rsp ++ [.messages p.out], run := .idle })) ∧
  (∀ (s : State) (chunk : Bytes), s.run = .idle → s.fault = none → s.resid = [] →
    (∀ b ∈ chunk, b ≠ 0xFE#8 ∧ b ≠ 0xFD#8) →
    exec (.parse chunk) s = .next { s with trash := s.trash + chunk.length, rsp := s.rsp ++ [.messages []] })

/-- At a start marker with fewer bytes left than the header length of its version, everything from the marker on is kept
and the command ends; no counter moves (R200: that the header length is the whole header is the spec's decision D21). -/
def Obligations.HeaderWaitKeepsTheTail : Prop :=
  ∀ (s : State) (p : ParseRun), s.run = .parse p → p.sc < p.w.length →
    (byteAt p.w p.sc = 0xFE#8 ∧ p.w.length < p.sc + 6 ∨ byteAt p.w p.sc = 0xFD#8 ∧ p.w.length < p.sc + 10) →
    step s = .next { s with resid := p.w.drop p.sc, rsp := s.rsp ++ [.messages p.out], run := .idle }

/-- R201, R202: with the whole header there but fewer bytes left than the total length it declares, everything from the
marker on is kept and the command ends; no counter moves. -/
def Obligations.FrameWaitKeepsTheTail : Prop :=
  ∀ (s : State) (p : ParseRun), s.run = .parse p →
    (byteAt p.w p.sc = 0xFE#8 → p.sc + 6 ≤ p.w.length →
      p.w.length < p.sc + (6 + (byteAt p.w (p.sc + 1)).toNat + 2) →
      step s = .next { s with resid := p.w.drop p.sc, rsp := s.rsp ++ [.messages p.out], run := .idle }) ∧
    (byteAt p.w p.sc = 0xFD#8 → p.sc + 10 ≤ p.w.length →
      p.w.length < p.sc + (10 + (byteAt p.w (p.sc + 1)).toNat + 2 +
        (if (byteAt p.w (p.sc + 2)).getLsbD 0 then 13 else 0)) →
      step s = .next { s with resid := p.w.drop p.sc, rsp := s.rsp ++ [.messages p.out], run := .idle })

/-- R203: with the whole frame there, exactly its bytes are taken as one candidate frame, and the cursor has moved past
them before the frame is decoded and by as much whatever the verdict. -/
def Obligations.CompleteFrameIsSliced : Prop :=
  ∀ (s : State) (p : ParseRun) (total : Nat), s.run = .parse p →
    (byteAt p.w p.sc = 0xFE#8 ∧ total = 6 + (byteAt p.w (p.sc + 1)).toNat + 2 ∨
      byteAt p.w p.sc = 0xFD#8 ∧ total = 10 + (byteAt p.w (p.sc + 1)).toNat + 2 +
        (if (byteAt p.w (p.sc + 2)).getLsbD 0 then 13 else 0)) →
    p.sc + total ≤ p.w.length →
    ∃ fr : Frame, frameWf fr = true ∧ frameBytes fr = slice p.w p.sc (p.sc + total) ∧
      step s = exec fr.instr { s with run := .parse { p with sc := p.sc + total } } ∧
      ∀ t q, step s = .next t → t.run = .parse q → q.sc = p.sc + total ∧ q.w = p.w

/-- PARSE as one command is the run of its micro-steps from `W = RESID ++ chunk`, `SC = 0`, `OUT = []` to its end
(R195, R196; that a command is one step and a micro-step is one too is the model's form, notes/assumptions/6.md). -/
def Obligations.ParseIsTheRunOfItsMicroSteps : Prop :=
  ∀ (s : State) (chunk : Bytes), s.run = .idle → s.fault = none →
    ∃ (n : Nat) (t : State), exec (.parse chunk) s = .next t ∧ t.run = .idle ∧
      Host.Core.run Sys2Proof.core n
        { s with run := .parse { w := s.resid ++ chunk, sc := 0, out := [], acc := 0xFFFF#16 } } = .next t

/-- PARSE completes on every chunk where the Registry has no defective descriptor: it answers the messages it emitted,
notifies each of them once in the same order, counts them in `PKTS`, and touches neither FAULT nor CRC
(R195, R207, R214, R274, R275). -/
def Obligations.ParseReturnsWhatItEmits : Prop :=
  ∀ (s : State) (chunk : Bytes), s.run = .idle → s.fault = none → registrySound s.registry →
    ∃ (t : State) (out : List Message), exec (.parse chunk) s = .next t ∧ t.fault = none ∧ t.run = .idle ∧
      t.rsp = s.rsp ++ [.messages out] ∧ t.msg = s.msg ++ out ∧ t.pkts = s.pkts + out.length ∧
      s.trash ≤ t.trash ∧ s.crcerr ≤ t.crcerr ∧ s.unkmsg ≤ t.unkmsg ∧ s.parseerr ≤ t.parseerr ∧
      t.crc = s.crc ∧ t.cmd = s.cmd ∧ t.registry = s.registry ∧ t.free = s.free

/-- Chunk invariance (R208, derived by the spec): two PARSEs in a row have the same effect as one over the joined
chunks, on every register and every notification, and their responses joined are its response. -/
def Obligations.ParseIsChunkInvariant : Prop :=
  ∀ (s t u : State) (A B : Bytes), s.run = .idle → s.fault = none →
    exec (.parse A) s = .next t → t.fault = none → exec (.parse B) t = .next u → u.fault = none →
    ∃ outA outB, t.rsp = s.rsp ++ [.messages outA] ∧ u.rsp = t.rsp ++ [.messages outB] ∧
      exec (.parse (A ++ B)) s = .next { u with rsp := s.rsp ++ [.messages (outA ++ outB)] }

/-- PARSE of the empty chunk answers no message and leaves every register as it was, for every residual a PARSE leaves
(R212, from R209; D35 is the spec's decision). -/
def Obligations.EmptyChunkChangesNothing : Prop :=
  ∀ s : State, s.run = .idle → s.fault = none → residOk s.resid →
    exec (.parse []) s = .next { s with rsp := s.rsp ++ [.messages []] }

/-- R227: one byte of a valid frame changed, the frame given to an instance with no residual. A change in the covered
bytes other than `len`, the id and the signed bit, or in the checksum, gives one checksum error and no message; a change
in the signature block gives one message and no error (derived by the spec). -/
def Obligations.ChangedByteIsACrcError : Prop :=
  ∀ (s : State) (fr : Frame) (d : Descriptor) (pos : Nat) (b : Byte), s.run = .idle → s.fault = none → s.resid = [] →
    frameWf fr = true → lookupIn s.registry (frameHeader fr).messageId = some d →
    frameChecksum fr d.crcExtra = frameTx fr → b ≠ byteAt (frameBytes fr) pos →
    (((frameHeader fr).isV2 = false ∧ (2 ≤ pos ∧ pos < 5 ∨ 6 ≤ pos ∧ pos < 8 + frameLen fr) ∨
        (frameHeader fr).isV2 = true ∧
          (pos = 2 ∧ b.getLsbD 0 = (byteAt (frameBytes fr) 2).getLsbD 0 ∨ 3 ≤ pos ∧ pos < 7 ∨
            10 ≤ pos ∧ pos < 12 + frameLen fr)) →
      exec (.parse ((frameBytes fr).set pos b)) s =
        .next { s with crcerr := s.crcerr + 1, rsp := s.rsp ++ [.messages []] }) ∧
    (∀ toks, tokenize d.wireFormat = .ok toks → toks.length = d.fields.length → d.fields.Nodup →
      programSize toks ≤ max (frameLen fr) d.maxPayloadLen →
      (frameHeader fr).isV2 = true → 12 + frameLen fr ≤ pos → pos < (frameBytes fr).length →
      ∃ m, exec (.parse ((frameBytes fr).set pos b)) s =
        .next { s with pkts := s.pkts + 1, msg := s.msg ++ [m], rsp := s.rsp ++ [.messages [m]] })

/-! ## ENCODE -/

/-- ENCODE completes for every registered id it can hold and every accepted payload whose fields fit: header, the packed
payload without its trailing zeros but one byte, checksum, and the signature block exactly for a v2 request with a key;
no register changes, FAULT set or not (R230, R233 to R241, R243, R189; D20, D25 to D29 are the spec's decisions). -/
def Obligations.EncodeLaysOutTheFrame : Prop :=
  ∀ (s : State) (req : EncodeRequest) (d : Descriptor) (toks : List Token), s.run = .idle →
    lookupIn s.registry req.messageId = some d → d.maxPayloadLen ≤ 255 →
    (req.isV2 = true ∨ req.messageId.toNat ≤ 255) → tokenize d.wireFormat = .ok toks →
    toks.length = d.fields.length → d.fields.Nodup → mappingAccepted req.payload toks d.fields →
    programSize toks ≤ d.maxPayloadLen →
    ∃ (scratch : Bytes) (n : Nat),
      exec (.pack req.payload d.wireFormat d.fields (zeros d.maxPayloadLen) 0) s =
        .next { s with rsp := s.rsp ++ [.packed scratch (programSize toks)] } ∧
      scratch.length = d.maxPayloadLen ∧ n ≤ d.maxPayloadLen ∧ (1 ≤ d.maxPayloadLen → 1 ≤ n) ∧
      (∀ i, n ≤ i → i < d.maxPayloadLen → byteAt scratch i = 0) ∧ (2 ≤ n → byteAt scratch (n - 1) ≠ 0) ∧
      let H := requestHeaderBytes req (BitVec.ofNat 8 n)
      let c := mix ((H.tail ++ scratch.take n).foldl mix 0xFFFF#16) d.crcExtra
      let G := H ++ scratch.take n ++ le 2 c.toNat
      (req.isV2 = false ∨ req.sign = none →
        exec (.encode req) s = .next { s with rsp := s.rsp ++ [.frame G] } ∧
        G.length = (if req.isV2 then 10 else 6) + n + 2) ∧
      (∀ sg, req.isV2 = true → req.sign = some sg →
        let blk := [sg.linkId] ++ le 6 (sg.timestamp % 2 ^ 48)
        let signedG := G ++ blk ++ (Config.sigHash sg.key (G ++ blk)).bytes
        exec (.encode req) s = .next { s with rsp := s.rsp ++ [.frame signedG] } ∧
        signedG.length = 10 + n + 2 + 13)

/-- Where ENCODE does not complete, in order: an unknown id, a payload too long for the `len` byte, a v1 id above 255,
then the error of PACK as it is; nothing else changes, UNKMSG included (R231 to R233, R272; the refusals are the spec's
decision D26). -/
def Obligations.EncodeRefusals : Prop :=
  ∀ (s : State) (req : EncodeRequest), s.run = .idle →
    (lookupIn s.registry req.messageId = none →
      exec (.encode req) s = .next { s with rsp := s.rsp ++ [.error .eUnknownId] }) ∧
    (∀ d, lookupIn s.registry req.messageId = some d →
      (255 < d.maxPayloadLen → exec (.encode req) s = .next { s with rsp := s.rsp ++ [.error .eValue] }) ∧
      (req.isV2 = false → 255 < req.messageId.toNat →
        exec (.encode req) s = .next { s with rsp := s.rsp ++ [.error .eValue] }) ∧
      (d.maxPayloadLen ≤ 255 → (req.isV2 = true ∨ req.messageId.toNat ≤ 255) →
        ∀ e, exec (.pack req.payload d.wireFormat d.fields (zeros d.maxPayloadLen) 0) s =
            .next { s with rsp := s.rsp ++ [.error e] } →
          exec (.encode req) s = .next { s with rsp := s.rsp ++ [.error e] }))

/-- R242: if ENCODE answers a frame, PARSE of that frame on an instance with no residual and the same Registry emits
exactly one message: the request's header fields, its payload made canonical, and its signature record; `PKTS` moves by
1 and nothing else does (derived by the spec). -/
def Obligations.EncodeParseRoundTrip : Prop :=
  ∀ (s u : State) (req : EncodeRequest) (d : Descriptor) (toks : List Token) (G : Bytes), s.run = .idle →
    exec (.encode req) s = .next { s with rsp := s.rsp ++ [.frame G] } →
    lookupIn s.registry req.messageId = some d → tokenize d.wireFormat = .ok toks →
    u.run = .idle → u.fault = none → u.resid = [] → u.registry = s.registry →
    let m : Message :=
      ⟨requestHeader req (byteAt G 1), canonicalMapping req.payload toks d.fields, requestSig req G⟩
    exec (.parse G) u =
      .next { u with pkts := u.pkts + 1, msg := u.msg ++ [m], rsp := u.rsp ++ [.messages [m]] }

/-! ## Encodings -/

/-- Decoding what the encoder gives for a well-formed instruction gives the instruction back, for every command, token
and frame and every operand. -/
def Obligations.DecodeEncode : Prop := ∀ i : Instr, i.wf = true → decode (encode i) = .ok i

/-- A frame is read from the start of a byte sequence exactly when its bytes stand there: the frame decoder answers
well-formed frames, their bytes are the bytes it took, and it finds every well-formed frame whatever follows
(R90, R91, R93, R96, R107). -/
def Obligations.FrameDecoderTakesExactlyTheFrame : Prop :=
  (∀ (bs : Bytes) (fr : Frame) (total : Nat), decodeFrame bs = .ok (fr, total) →
    frameWf fr = true ∧ frameBytes fr = bs.take total ∧ total ≤ bs.length) ∧
  (∀ (fr : Frame) (tail : Bytes), frameWf fr = true →
    decodeFrame (frameBytes fr ++ tail) = .ok (fr, (frameBytes fr).length))

/-- Words written out from the spec's tables decode to the instructions they stand for: a command, a selector, an
operand; a token in both directions; PYMAV's own v1 frame; a signed v2 frame (R81, R85, R90, R91, R96). -/
def Obligations.WrittenWordsDecode : Prop :=
  decode (.cmd ⟨0x01#8, {}⟩) = .ok .reset ∧
  decode (.cmd ⟨0x02#8, { k := 4 }⟩) = .ok (.rdcnt .pkts) ∧
  decode (.cmd ⟨0x11#8, { d := 0x09#8 }⟩) = .ok (.crcStep 0x09#8) ∧
  decode (.cmd ⟨0x30#8, { chunk := [0xFE#8, 0x09#8] }⟩) = .ok (.parse [0xFE#8, 0x09#8]) ∧
  decode (.tok .unpack [0x31#8, 0x32#8, 0x48#8]) = .ok (.uH 12) ∧
  decode (.tok .pack [0x71#8]) = .ok (.pq 1) ∧
  decode (.frame [0xFE#8, 0x09#8, 0x80#8, 0x7B#8, 0xD4#8, 0x00#8, 0x04#8, 0x00#8, 0x00#8, 0x00#8, 0x01#8, 0x02#8,
      0x03#8, 0x05#8, 0x01#8, 0x42#8, 0xAF#8]) =
    .ok (.frameV1 ⟨0x09#8, 0x80#8, 0x7B#8, 0xD4#8, 0x00#8,
      [0x04#8, 0x00#8, 0x00#8, 0x00#8, 0x01#8, 0x02#8, 0x03#8, 0x05#8, 0x01#8], 0xAF42#16⟩) ∧
  decode (.frame [0xFD#8, 0x01#8, 0x01#8, 0x02#8, 0x07#8, 0x0A#8, 0x0B#8, 0x45#8, 0x23#8, 0x01#8, 0x56#8, 0xAF#8, 0x5B#8,
      0x03#8, 0x12#8, 0x34#8, 0x56#8, 0x78#8, 0x9A#8, 0xBC#8, 0xA1#8, 0xA2#8, 0xA3#8, 0xA4#8, 0xA5#8, 0xA6#8]) =
    .ok (.frameV2 ⟨0x01#8, 0x01#8, 0x02#8, 0x07#8, 0x0A#8, 0x0B#8, 0x012345#24, [0x56#8], 0x5BAF#16,
      some ⟨0x03#8, 0xBC9A78563412#48, ⟨0xA1#8, 0xA2#8, 0xA3#8, 0xA4#8, 0xA5#8, 0xA6#8⟩⟩⟩)

/-- A command code outside the table and a RDCNT selector above 4 get `E_BADCMD` in one step, whatever the operands and
whether or not the instance is faulted, and no register changes (R81, R106, R272: the spec's decision D3). -/
def Obligations.IllegalCommandGetsBadCmd : Prop :=
  ∀ (s : State) (c : Command) (rest : List Command), s.run = .idle → s.cmd = c :: rest →
    (c.code.toNat ∉ [0x01, 0x02, 0x10, 0x11, 0x12, 0x13, 0x14, 0x15, 0x20, 0x21, 0x22, 0x30, 0x31, 0x32] ∨
      c.code = 0x02#8 ∧ 4 < c.ops.k) →
    step s = .next { s with cmd := rest, rsp := s.rsp ++ [.error .eBadCmd] }

/-! ## The whole machine -/

/-- A step runs the decoded instruction: between commands the command at the head of channel CMD, which is taken; in a
token program the token at `TI`, in the direction of the program; in a PARSE the complete frame at `SC`, which the cursor
has passed (R7, R36, R81, R115, R203); with no command the block stays as it is (R284). -/
def Obligations.StepRunsTheDecodedInstruction : Prop :=
  (∀ (s : State) (c : Command) (rest : List Command) (i : Instr), s.run = .idle → s.cmd = c :: rest →
    decode (.cmd c) = .ok i → step s = exec i { s with cmd := rest }) ∧
  (∀ s : State, s.run = .idle → s.cmd = [] → step s = .next s) ∧
  (∀ (s : State) (r : UnpackRun) (t : Token), s.run = .unpack r → r.toks[r.ti]? = some t →
    step s = exec (t.instr .unpack) s) ∧
  (∀ (s : State) (r : PackRun) (t : Token), s.run = .pack r → r.toks[r.ti]? = some t →
    step s = exec (t.instr .pack) s) ∧
  (∀ (s : State) (p : ParseRun) (fr : Frame) (total : Nat), s.run = .parse p →
    decodeFrame (p.w.drop p.sc) = .ok (fr, total) →
    step s = exec fr.instr { s with run := .parse { p with sc := p.sc + total } })

/-- The end of a token program, `TI = |TOKS|`, for each of its four callers: the host's UNPACK gets the mapping, the
host's PACK the buffer and the cursor; inside a PARSE the message is emitted and the PARSE goes on; inside an ENCODE the
packed payload is truncated and becomes the frame, with its signature block exactly for a v2 request with a key (R36,
R130, R150, R225, R234 to R240; the latter's choices are the spec's decisions D25, D27, D28, D29; a program in the
middle of its command is the model's form, notes/assumptions/6.md). -/
def Obligations.TokenProgramsEnd : Prop :=
  (∀ (s : State) (r : UnpackRun), s.run = .unpack r → r.toks[r.ti]? = none →
    (r.caller = .host → step s = .next { s with rsp := s.rsp ++ [.mapping r.m], run := .idle }) ∧
    (∀ p hdr sig, r.caller = .frame p hdr sig →
      step s = .next { s with
        pkts := s.pkts + 1
        msg := s.msg ++ [⟨hdr, r.m, sig⟩]
        run := .parse { p with out := p.out ++ [⟨hdr, r.m, sig⟩] } })) ∧
  (∀ (s : State) (r : PackRun), s.run = .pack r → r.toks[r.ti]? = none →
    (r.caller = .host → step s = .next { s with rsp := s.rsp ++ [.packed r.out r.cur], run := .idle }) ∧
    (∀ req d, r.caller = .encode req d →
      ∃ n, truncatedTo r.out d.maxPayloadLen n ∧
        let G := requestFrame req d.crcExtra (r.out.take n) n
        (req.isV2 = false ∨ req.sign = none →
          step s = .next { s with rsp := s.rsp ++ [.frame G], run := .idle }) ∧
        (∀ sg, req.isV2 = true → req.sign = some sg →
          step s = .next { s with rsp := s.rsp ++ [.frame (withSigBlock sg G)], run := .idle })))

/-- UNPACK, PACK, ENCODE and a candidate frame as one step are the runs of their token programs, token by token, from
the first token to the end (R115, R130, R150, R223, R233; notes/assumptions/6.md). -/
def Obligations.TokenProgramsAreTheirTokens : Prop :=
  (∀ (s : State) (buf fmt : Bytes) (names : List FieldName) (toks : List Token), s.run = .idle →
    program fmt names = .ok toks →
    ∃ n, Host.Core.run Sys2Proof.core n { s with run := .unpack (startUnpack toks buf names .host) } =
      exec (.unpack buf fmt names) s) ∧
  (∀ (s : State) (map : Mapping) (fmt : Bytes) (names : List FieldName) (buf : Bytes) (off : Nat) (toks : List Token),
    s.run = .idle → program fmt names = .ok toks →
    ∃ n, Host.Core.run Sys2Proof.core n { s with run := .pack (startPack map toks names buf off .host) } =
      exec (.pack map fmt names buf off) s) ∧
  (∀ (s : State) (req : EncodeRequest) (d : Descriptor) (toks : List Token), s.run = .idle →
    encodable s.registry req = .ok d → program d.wireFormat d.fields = .ok toks →
    ∃ n, Host.Core.run Sys2Proof.core n { s with run := .pack (startEncode req d toks) } = exec (.encode req) s) ∧
  (∀ (s : State) (p : ParseRun) (fr : Frame) (d : Descriptor) (toks : List Token), s.run = .parse p →
    lookupIn s.registry (frameHeader fr).messageId = some d → (candidateOf fr).acc d = frameTx fr →
    program d.wireFormat d.fields = .ok toks →
    ∃ n, Host.Core.run Sys2Proof.core n { s with run := .unpack (startFrameUnpack (candidateOf fr) d toks p) } =
      exec fr.instr s)

/-- The invariant of the registers: every step keeps RESID within 279 bytes and, while no fault is held, a wait of the
parser: empty, or a start marker and fewer bytes than its header or its own declared length (R20, R21, R209). -/
def Obligations.StepKeepsTheResidualInvariant : Prop := ∀ s t : State, Inv s → step s = .next t → Inv t

/-- The residual invariant holds at reset, and nothing runs there (R45, R291). -/
def Obligations.ResetMeetsTheInvariants : Prop :=
  Inv State.reset ∧ cursorsOk State.reset.run ∧ State.reset.run = .idle

/-- Every step keeps the cursors within what they index: `SC` within `W`, `TI` within `TOKS`, `CUR` within the buffer an
unpack program reads and, after the first token, within the buffer a pack program writes (R35, R36: none of the three
wraps; that the offset operand is tested at the first token only is the spec's decision D19). -/
def Obligations.StepKeepsTheCursorsInBounds : Prop :=
  ∀ s t : State, cursorsOk s.run → step s = .next t → cursorsOk t.run

/-- Every host command completes in one step from every idle state, with exactly one response and nothing left running,
and leaves the commands not yet taken and the Registry alone (R7, R12, R61, R67). -/
def Obligations.EveryCommandCompletes : Prop :=
  ∀ (s : State) (i : Instr), isCommand i = true → s.run = .idle →
    ∃ (t : State) (r : Response), exec i s = .next t ∧ t.run = .idle ∧ t.rsp = s.rsp ++ [r] ∧ t.cmd = s.cmd ∧
      t.registry = s.registry

/-- The codec, encoder and default commands read no register: FMT.TOK, UNPACK, PACK, ENCODE and BUILD_DEFAULT give one
response to every idle instance with one Registry, and change nothing but the response channel
(R60, R149, R169, R243). -/
def Obligations.CodecCommandsReadNoRegister : Prop :=
  ∀ (s s' : State) (i : Instr), s.run = .idle → s'.run = .idle → s'.registry = s.registry →
    (∃ fmt, i = .fmtTok fmt) ∨ (∃ buf fmt names, i = .unpack buf fmt names) ∨
      (∃ map fmt names buf off, i = .pack map fmt names buf off) ∨ (∃ req, i = .encode req) ∨
      (∃ id, i = .buildDefault id) →
    ∃ r, exec i s = .next { s with rsp := s.rsp ++ [r] } ∧ exec i s' = .next { s' with rsp := s'.rsp ++ [r] }

/-- Who writes what (the table of R20): CRC only the CRC commands and RESET; RESID, FAULT and the five counters only
PARSE and RESET among the commands; the Registry and channel CMD no instruction. -/
def Obligations.RegistersHaveTheirWriters : Prop :=
  ∀ (s t : State) (i : Instr), exec i s = .next t →
    t.registry = s.registry ∧ t.cmd = s.cmd ∧ (writesCrc i = false → t.crc = s.crc) ∧
    (isCommand i = true → writesParser i = false →
      t.resid = s.resid ∧ t.fault = s.fault ∧ t.trash = s.trash ∧ t.crcerr = s.crcerr ∧ t.unkmsg = s.unkmsg ∧
      t.parseerr = s.parseerr ∧ t.pkts = s.pkts)

/-- The fault is sticky: while it is set PARSE is refused and changes nothing, and no instruction but RESET clears it
(R28, R197, R271: the spec's decisions D24, D38). -/
def Obligations.TheFaultIsSticky : Prop :=
  (∀ (s : State) (chunk : Bytes), s.run = .idle → s.fault ≠ none →
    exec (.parse chunk) s = .next { s with rsp := s.rsp ++ [.error .eFaulted] }) ∧
  (∀ (s t : State) (i : Instr), s.fault ≠ none → exec i s = .next t → i ≠ .reset → t.fault ≠ none)

/-- A counter never decreases except by RESET, in every instruction that ends without a fault (R27; after a fault the
counters are unspecified, R28). -/
def Obligations.CountersOnlyGrow : Prop :=
  ∀ (s t : State) (i : Instr), exec i s = .next t → i ≠ .reset → t.fault = none →
    s.trash ≤ t.trash ∧ s.crcerr ≤ t.crcerr ∧ s.unkmsg ≤ t.unkmsg ∧ s.parseerr ≤ t.parseerr ∧ s.pkts ≤ t.pkts

/-- R64, R300: a command presented while another runs on the same instance has no step. -/
def Obligations.NoStepWhileAnotherCommandRuns : Prop :=
  ∀ (s : State) (i : Instr), isCommand i = true → s.run ≠ .idle → exec i s = .fault .concurrentDrive

/-- A token has no step outside a token program of its direction, a frame none outside a PARSE (R115, R215; the stop is
the model's choice, notes/assumptions/14.md). -/
def Obligations.TokensAndFramesNeedTheirCommand : Prop :=
  (∀ (s : State) (t : Token), (∀ r, s.run ≠ .unpack r) → exec (t.instr .unpack) s = .fault .noTokenProgram) ∧
  (∀ (s : State) (t : Token), (∀ r, s.run ≠ .pack r) → exec (t.instr .pack) s = .fault .noTokenProgram) ∧
  (∀ (s : State) (fr : Frame), (∀ p, s.run ≠ .parse p) → exec fr.instr s = .fault .noParse)

end
end

