-- ==== Sys2Proof/Laws/Bytes.lean ====
section
/-! SUPPORT. The laws of byte sequences: lengths, little-endian words, and what a write into a buffer does. -/

namespace Sys2Proof

/-! ## Little-endian words -/

@[simp] theorem le_length (n v : Nat) : (le n v).length = n := by
  induction n generalizing v with
  | zero => rfl
  | succ n ih => simp [le, ih]

/-- Reading a little-endian word back loses the bits above its width and no other. -/
theorem ule_le (n v : Nat) : ule (le n v) = v % 256 ^ n := by
  induction n generalizing v with
  | zero => simp [le, ule, Nat.mod_one]
  | succ n ih => simp [le, ule, ih, Nat.pow_succ', Nat.mod_mul]

theorem ule_le_of_lt {n v : Nat} (h : v < 256 ^ n) : ule (le n v) = v := by rw [ule_le, Nat.mod_eq_of_lt h]

theorem ule_lt (B : Bytes) : ule B < 256 ^ B.length := by
  induction B with
  | nil => simp [ule]
  | cons b B ih => have hb : b.toNat < 256 := b.isLt; simp only [ule, List.length_cons, Nat.pow_succ']; omega

/-- A byte sequence is the little-endian word of its value. -/
theorem le_ule (B : Bytes) : le B.length (ule B) = B := by
  induction B with
  | nil => rfl
  | cons b B ih =>
    have hb : b.toNat < 256 := b.isLt
    have hdiv : (b.toNat + 256 * ule B) / 256 = ule B := by omega
    have hmod : BitVec.ofNat 8 (b.toNat + 256 * ule B) = b := by apply BitVec.eq_of_toNat_eq; simp; omega
    simp only [List.length_cons, le, ule, hdiv, hmod, ih]

/-! ## Zeros -/

@[simp] theorem zeros_length (n : Nat) : (zeros n).length = n := by simp [zeros]

@[simp] theorem zeros_zero : zeros 0 = [] := rfl

@[simp] theorem byteAt_zeros (n i : Nat) : byteAt (zeros n) i = 0 := by
  by_cases h : i < n <;> simp [byteAt, zeros, List.getD, h]

@[simp] theorem ule_zeros (n : Nat) : ule (zeros n) = 0 := by
  induction n with
  | zero => rfl
  | succ n ih => simpa [zeros, List.replicate_succ, ule] using ih

theorem slice_zeros (n i j : Nat) : slice (zeros n) i j = zeros (min (j - i) (n - i)) := by
  simp [slice, zeros, List.take_replicate]

/-! ## Bytes and slices -/

theorem byteAt_of_length_le {B : Bytes} {i : Nat} (h : B.length ≤ i) : byteAt B i = 0 := by
  simp [byteAt, List.getD, h]

theorem byteAt_append_left {A B : Bytes} {i : Nat} (h : i < A.length) : byteAt (A ++ B) i = byteAt A i := by
  simp [byteAt, List.getD, List.getElem?_append_left h]

theorem byteAt_append_right {A B : Bytes} {i : Nat} (h : A.length ≤ i) :
    byteAt (A ++ B) i = byteAt B (i - A.length) := by
  simp [byteAt, List.getD, List.getElem?_append_right h]

theorem byteAt_drop (B : Bytes) (a i : Nat) : byteAt (B.drop a) i = byteAt B (a + i) := by
  simp [byteAt, List.getD]

theorem byteAt_take {B : Bytes} {n i : Nat} (h : i < n) : byteAt (B.take n) i = byteAt B i := by
  simp [byteAt, List.getD, h]

@[simp] theorem slice_length (B : Bytes) (i j : Nat) : (slice B i j).length = min (j - i) (B.length - i) := by
  simp [slice]

theorem slice_append_left {A : Bytes} (B : Bytes) {i j : Nat} (h : j ≤ A.length) :
    slice (A ++ B) i j = slice A i j := by
  rcases Nat.lt_or_ge A.length i with hi | hi
  · have : j - i = 0 := by omega
    simp [slice, this]
  · rw [slice, slice, List.drop_append_of_le_length hi, List.take_append_of_le_length (by simp; omega)]

/-! ## Writing into a buffer -/

/-- A write inside the buffer keeps its length. -/
theorem memWrite_length {buf S : Bytes} {a : Nat} (h : a + S.length ≤ buf.length) :
    (memWrite buf a S).length = buf.length := by
  simp [memWrite]; omega

/-- A read inside the bytes written gives the byte written. -/
theorem byteAt_memWrite_inside {buf S : Bytes} {a i : Nat} (h : a + S.length ≤ buf.length) (hi : i < S.length) :
    byteAt (memWrite buf a S) (a + i) = byteAt S i := by
  have hlen : (buf.take a).length = a := by simp; omega
  rw [memWrite, List.append_assoc, byteAt_append_right (by omega), hlen, Nat.add_sub_cancel_left,
    byteAt_append_left hi]

/-- A read outside the bytes written gives what it gave before. -/
theorem byteAt_memWrite_outside {buf S : Bytes} {a i : Nat} (h : a + S.length ≤ buf.length)
    (hi : i < a ∨ a + S.length ≤ i) : byteAt (memWrite buf a S) i = byteAt buf i := by
  have hlen : (buf.take a).length = a := by simp; omega
  rcases hi with hi | hi
  · rw [memWrite, List.append_assoc, byteAt_append_left (by omega), byteAt_take hi]
  · rw [memWrite, byteAt_append_right (by simp; omega), byteAt_drop]
    congr 1
    simp; omega

/-- The slice written is the bytes written. -/
theorem slice_memWrite_same {buf S : Bytes} {a : Nat} (h : a + S.length ≤ buf.length) :
    slice (memWrite buf a S) a (a + S.length) = S := by
  have hlen : (buf.take a).length = a := by simp; omega
  rw [slice, memWrite, List.append_assoc, List.drop_append_of_le_length (by omega), Nat.add_sub_cancel_left]
  simp

/-- Two writes one after the other are one write of both. -/
theorem memWrite_memWrite {buf S T : Bytes} {a : Nat} (h : a + S.length + T.length ≤ buf.length) :
    memWrite (memWrite buf a S) (a + S.length) T = memWrite buf a (S ++ T) := by
  have hlen : (buf.take a ++ S).length = a + S.length := by simp; omega
  have htake : (buf.take a ++ S ++ buf.drop (a + S.length)).take (a + S.length) = buf.take a ++ S := by
    rw [← hlen, List.take_left']
    rfl
  have hdrop : (buf.take a ++ S ++ buf.drop (a + S.length)).drop (a + S.length + T.length) =
      buf.drop (a + (S ++ T).length) := by
    rw [← hlen, List.drop_append, List.drop_drop, hlen]
    have hnil : (buf.take a ++ S).drop (a + S.length + T.length) = [] := List.drop_eq_nil_of_le (by omega)
    rw [hnil, List.nil_append, List.length_append]
    congr 1
    omega
  rw [memWrite, memWrite, memWrite, htake, hdrop, List.append_assoc, List.append_assoc, List.append_assoc,
    ← List.append_assoc S T]

end Sys2Proof
end

