-- ==== Sys2Proof/Laws/Buffers.lean ====
section
/-! SUPPORT. What the pack microcodelets keep of a buffer, said once for all of them: its length and every byte outside
the field. And the size rule of the unpack loop. -/

namespace Sys2Proof.Machine

theorem unsignedBytes_length {w : Nat} {z : Int} {S : Bytes} (h : unsignedBytes w z = some S) : S.length = w := by
  unfold unsignedBytes at h
  split at h
  · cases h; exact le_length _ _
  · cases h

theorem signedBytes_length {w : Nat} {z : Int} {S : Bytes} (h : signedBytes w z = some S) : S.length = w := by
  unfold signedBytes at h
  split at h
  · cases h; exact le_length _ _
  · cases h

/-- A scalar is written as exactly as many bytes as its code is wide (R85, R153). -/
theorem scalarBytes_length {code : TypeCode} {x : Scalar} {S : Bytes} (h : scalarBytes code x = some S) :
    S.length = code.width := by
  cases x with
  | int z =>
    cases code <;> first
      | exact unsignedBytes_length h
      | exact signedBytes_length h
      | cases h
  | f32 u => cases code <;> cases h; exact le_length _ _
  | f64 u => cases code <;> cases h; exact le_length _ _
  | char b => cases code <;> cases h; rfl

/-- What a write may do to a buffer: it keeps the length and every byte outside `[a, a + n)`. -/
def WritesWithin (out out' : Bytes) (a n : Nat) : Prop :=
  out'.length = out.length ∧ ∀ i, (i < a ∨ a + n ≤ i) → byteAt out' i = byteAt out i

theorem WritesWithin.refl (out : Bytes) (a n : Nat) : WritesWithin out out a n := ⟨rfl, fun _ _ => rfl⟩

theorem memWrite_writesWithin {out S : Bytes} {a n : Nat} (hS : S.length ≤ n) (h : a + n ≤ out.length) :
    WritesWithin out (memWrite out a S) a n :=
  ⟨memWrite_length (by omega), fun i hi => byteAt_memWrite_outside (by omega) (by omega)⟩

theorem wr_writesWithin {out out' : Bytes} {a : Nat} {code : TypeCode} {x : Scalar}
    (h : a + code.width ≤ out.length) (hw : wr out a code x = some out') : WritesWithin out out' a code.width := by
  unfold wr at hw
  split at hw
  · rename_i S hS
    cases hw
    have hl := scalarBytes_length hS
    exact memWrite_writesWithin (le_of_eq hl) h
  · cases hw

theorem wrArray_writesWithin {out out' : Bytes} {a : Nat} {code : TypeCode} {L : List Scalar}
    (h : a + L.length * code.width ≤ out.length) (hw : wrArray out a code L = some out') :
    WritesWithin out out' a (L.length * code.width) := by
  induction L generalizing out a with
  | nil => cases hw; exact .refl _ _ _
  | cons x L ih =>
    have hmul : (x :: L).length * code.width = code.width + L.length * code.width := by
      rw [List.length_cons, Nat.succ_mul, Nat.add_comm]
    rw [wrArray] at hw
    split at hw
    · rename_i mid hmid
      have h1 := wr_writesWithin (by omega) hmid
      have hlen := h1.1
      have h2 := ih (by omega) hw
      refine ⟨h2.1.trans h1.1, fun i hi => ?_⟩
      rw [h2.2 i (by omega), h1.2 i (by omega)]
    · cases hw

/-- The frame of every pack microcodelet: "state written: bytes of `out` inside `[a, a + cnt*w)` only"
(spec/42_pack.md section 3). -/
theorem microP_writesWithin {code : TypeCode} {out out' : Bytes} {a cnt : Nat} {v : Value}
    (h : a + cnt * code.width ≤ out.length) (hw : microP code out a cnt v = some out') :
    WritesWithin out out' a (cnt * code.width) := by
  have scalar : ∀ k : TypeCode, cnt = 1 → k.width = code.width → writeScalar k out a v = some out' →
      WritesWithin out out' a (cnt * code.width) := by
    intro k h1 hc hw
    cases v with
    | scalar x => rw [h1, Nat.one_mul, ← hc] at h ⊢; exact wr_writesWithin h hw
    | str S => cases hw
    | bytes S => cases hw
    | arr L => cases hw
  have bytes : ∀ S : Bytes, code.width = 1 → writeBytes out a cnt S = some out' →
      WritesWithin out out' a (cnt * code.width) := by
    intro S hc hw
    unfold writeBytes at hw
    split at hw
    · cases hw; rw [hc, Nat.mul_one] at h ⊢; exact memWrite_writesWithin ‹_› h
    · cases hw
  have numeric : ∀ k : TypeCode, k.width = code.width → writeNumeric k out a cnt v = some out' →
      WritesWithin out out' a (cnt * code.width) := by
    intro k hc hw
    unfold writeNumeric at hw
    split at hw
    · exact scalar k ‹_› hc hw
    · cases v with
      | scalar x => cases hw
      | str S => cases hw
      | bytes S => cases hw
      | arr L =>
        dsimp only at hw
        split at hw
        · rename_i hL
          have hle : L.length * k.width ≤ cnt * code.width := hc ▸ Nat.mul_le_mul_right _ hL
          have hin := wrArray_writesWithin (by omega) hw
          exact ⟨hin.1, fun i hi => hin.2 i (by omega)⟩
        · cases hw
  cases code with
  | f => exact numeric .f rfl hw
  | d => exact numeric .d rfl hw
  | b => exact numeric .b rfl hw
  | h => exact numeric .h rfl hw
  | H => exact numeric .H rfl hw
  | i => exact numeric .i rfl hw
  | I => exact numeric .I rfl hw
  | q => exact numeric .q rfl hw
  | Q => exact numeric .Q rfl hw
  | B =>
    simp only [microP, microPB] at hw
    split at hw
    · exact scalar .B ‹_› rfl hw
    · cases v with
      | bytes S => exact bytes S rfl hw
      | scalar x => cases hw
      | str S => cases hw
      | arr L => cases hw
  | c =>
    simp only [microP, microPc] at hw
    split at hw
    · exact scalar .c ‹_› rfl hw
    · cases v with
      | str S => exact bytes S rfl hw
      | scalar x => cases hw
      | bytes S => cases hw
      | arr L => cases hw

/-- A complete unpack program reads exactly where its tokens fit (R136, R149). -/
theorem unpackTokens_none_iff (buf : Bytes) (ps : List (Token × FieldName)) (cur : Nat) (h : cur ≤ buf.length) :
    unpackTokens buf ps cur = none ↔ buf.length < cur + programSize (ps.map Prod.fst) := by
  induction ps generalizing cur with
  | nil => simp [unpackTokens, programSize, h]
  | cons p ps ih =>
    obtain ⟨t, name⟩ := p
    have hsize : programSize (((t, name) :: ps).map Prod.fst) = t.size + programSize (ps.map Prod.fst) := by
      simp [programSize]
    rw [unpackTokens, hsize]
    split
    · simp; omega
    · rename_i hfit
      have := ih (cur + t.size) (by omega)
      rw [Nat.add_assoc] at this
      rw [← this]
      cases unpackTokens buf ps (cur + t.size) <;> simp

end Sys2Proof.Machine
end

