-- ==== Sys2Proof/Laws/Frames.lean ====
section
/-! SUPPORT. What the rest of ENCODE does with a packed payload, said once: where truncation cuts it, which bytes the
checksum covers, and the frame in the words of the rules. -/

namespace Sys2Proof.Machine

open Sys2Proof.Safety

/-- Truncation cuts where R234 and R235 say. -/
theorem truncLen_truncatedTo (scratch : Bytes) : ∀ max, truncatedTo scratch max (truncLen scratch max)
  | 0 => ⟨Nat.le_refl _, nofun, fun _ _ h => absurd h (Nat.not_lt_zero _), nofun⟩
  | 1 => ⟨Nat.le_refl _, fun _ => Nat.le_refl _, fun _ h h' => absurd h' (Nat.not_lt.mpr h),
      fun h => absurd h (by simp [truncLen])⟩
  | max + 2 => by
    obtain ⟨hle, hone, hzero, hlast⟩ := truncLen_truncatedTo scratch (max + 1)
    unfold truncLen
    split
    · rename_i h0
      refine ⟨by omega, fun _ => hone (by omega), fun i hi hm => ?_, hlast⟩
      by_cases hi' : i = max + 1
      · exact hi' ▸ h0
      · exact hzero i hi (by omega)
    · rename_i h0
      exact ⟨Nat.le_refl _, by omega, by omega, fun _ => h0⟩

/-- The covered bytes of a frame under construction (R94, R238): the header but its marker, then the payload. -/
theorem slice_covered {H P : Bytes} {n : Nat} (hH : H ≠ []) (hP : P.length ≤ n) :
    slice (H ++ P) 1 (H.length + n) = H.tail ++ P := by
  cases H with
  | nil => exact absurd rfl hH
  | cons a H => simp [slice]; omega

/-- The frame ENCODE answers, in the words of R236 to R240 and R189. -/
theorem finishFrame_eq (req : EncodeRequest) (d : Descriptor) (scratch : Bytes) :
    finishFrame req d scratch =
      let n := truncLen scratch d.maxPayloadLen
      let G := requestFrame req d.crcExtra (scratch.take n) n
      match signing req with
      | none => G
      | some sg => withSigBlock sg G := by
  have hP : (scratch.take (truncLen scratch d.maxPayloadLen)).length ≤ truncLen scratch d.maxPayloadLen := by
    rw [List.length_take]; exact Nat.min_le_left _ _
  have hH : emittedHeader req (truncLen scratch d.maxPayloadLen) =
      requestHeaderBytes req (BitVec.ofNat 8 (truncLen scratch d.maxPayloadLen)) := by
    obtain ⟨isV2, _, _, _, _, _, _, _, _⟩ := req
    cases isV2 <;>
      simp [emittedHeader, requestHeaderBytes, emittedIncompat, signing, headerBytesV1, headerBytesV2, Config.markV1,
        Config.markV2]
  have hne : requestHeaderBytes req (BitVec.ofNat 8 (truncLen scratch d.maxPayloadLen)) ≠ [] := by
    unfold requestHeaderBytes; split <;> simp
  simp only [finishFrame, hH, frameCrc, slice_covered hne hP, requestFrame, mixAll, Config.crcInit]
  cases signing req with
  | none => rfl
  | some sg => simp [withSigBlock, sigBuild, blk7]

end Sys2Proof.Machine
end

