-- ==== Sys2Proof/Laws/PerInstr.lean ====
section
/-! SUPPORT. Laws made per instruction, one lemma for each constructor. The family `RowMatch`: the byte by which
spec/opcode_table.json matches a row (R81, R85, R90, R91, R115) stands where its format puts it in what the encoder
gives: the code of a command, the last character of a token, the first byte of a frame. -/

namespace Sys2Proof.Laws

/-- The column `match` of spec/opcode_table.json. -/
def rowMatch : Instr → Byte
  | .reset => 0x01#8
  | .rdcnt _ => 0x02#8
  | .crcInit => 0x10#8
  | .crcStep _ => 0x11#8
  | .crcSeed _ => 0x12#8
  | .crcBuf _ => 0x13#8
  | .crcRd => 0x14#8
  | .crcFrame _ _ => 0x15#8
  | .fmtTok _ => 0x20#8
  | .unpack _ _ _ => 0x21#8
  | .pack _ _ _ _ _ => 0x22#8
  | .parse _ => 0x30#8
  | .encode _ => 0x31#8
  | .buildDefault _ => 0x32#8
  | .uf _ => 0x66#8
  | .ud _ => 0x64#8
  | .ub _ => 0x62#8
  | .uB _ => 0x42#8
  | .uh _ => 0x68#8
  | .uH _ => 0x48#8
  | .ui _ => 0x69#8
  | .uI _ => 0x49#8
  | .uq _ => 0x71#8
  | .uQ _ => 0x51#8
  | .uc _ => 0x63#8
  | .pf _ => 0x66#8
  | .pd _ => 0x64#8
  | .pb _ => 0x62#8
  | .pB _ => 0x42#8
  | .ph _ => 0x68#8
  | .pH _ => 0x48#8
  | .pi _ => 0x69#8
  | .pI _ => 0x49#8
  | .pq _ => 0x71#8
  | .pQ _ => 0x51#8
  | .pc _ => 0x63#8
  | .frameV1 _ => 0xFE#8
  | .frameV2 _ => 0xFD#8

/-- The byte a format matches its rows by. -/
def matchedByte : Source → Option Byte
  | .cmd c => some c.code
  | .tok _ chars => chars.getLast?
  | .frame bytes => bytes.head?

/-- The last character of a token is its type code. -/
theorem matchedByte_token (dir : Dir) (code : TypeCode) (cnt : Nat) : matchedByte (tokSource dir code cnt) = some code.char := by
  simp [matchedByte, tokSource, Token.chars]

namespace RowMatch

/-- The encoder gives the row's byte, for every operand. -/
def Statement (i : Instr) : Prop := matchedByte (encode i) = some (rowMatch i)

theorem reset : Statement .reset := rfl

theorem rdcnt (k : Counter) : Statement (.rdcnt k) := rfl

theorem crcInit : Statement .crcInit := rfl

theorem crcStep (d : Byte) : Statement (.crcStep d) := rfl

theorem crcSeed (seed : Byte) : Statement (.crcSeed seed) := rfl

theorem crcBuf (B : Bytes) : Statement (.crcBuf B) := rfl

theorem crcRd : Statement .crcRd := rfl

theorem crcFrame (B : Bytes) (seed : Byte) : Statement (.crcFrame B seed) := rfl

theorem fmtTok (fmt : Bytes) : Statement (.fmtTok fmt) := rfl

theorem unpack (buf : Bytes) (fmt : Bytes) (names : List FieldName) : Statement (.unpack buf fmt names) := rfl

theorem pack (map : Mapping) (fmt : Bytes) (names : List FieldName) (buf : Bytes) (off : Nat) : Statement (.pack map fmt names buf off) := rfl

theorem parse (chunk : Bytes) : Statement (.parse chunk) := rfl

theorem encode (req : EncodeRequest) : Statement (.encode req) := rfl

theorem buildDefault (id : MsgId) : Statement (.buildDefault id) := rfl

theorem uf (cnt : Nat) : Statement (.uf cnt) := matchedByte_token .unpack .f cnt

theorem ud (cnt : Nat) : Statement (.ud cnt) := matchedByte_token .unpack .d cnt

theorem ub (cnt : Nat) : Statement (.ub cnt) := matchedByte_token .unpack .b cnt

theorem uB (cnt : Nat) : Statement (.uB cnt) := matchedByte_token .unpack .B cnt

theorem uh (cnt : Nat) : Statement (.uh cnt) := matchedByte_token .unpack .h cnt

theorem uH (cnt : Nat) : Statement (.uH cnt) := matchedByte_token .unpack .H cnt

theorem ui (cnt : Nat) : Statement (.ui cnt) := matchedByte_token .unpack .i cnt

theorem uI (cnt : Nat) : Statement (.uI cnt) := matchedByte_token .unpack .I cnt

theorem uq (cnt : Nat) : Statement (.uq cnt) := matchedByte_token .unpack .q cnt

theorem uQ (cnt : Nat) : Statement (.uQ cnt) := matchedByte_token .unpack .Q cnt

theorem uc (cnt : Nat) : Statement (.uc cnt) := matchedByte_token .unpack .c cnt

theorem pf (cnt : Nat) : Statement (.pf cnt) := matchedByte_token .pack .f cnt

theorem pd (cnt : Nat) : Statement (.pd cnt) := matchedByte_token .pack .d cnt

theorem pb (cnt : Nat) : Statement (.pb cnt) := matchedByte_token .pack .b cnt

theorem pB (cnt : Nat) : Statement (.pB cnt) := matchedByte_token .pack .B cnt

theorem ph (cnt : Nat) : Statement (.ph cnt) := matchedByte_token .pack .h cnt

theorem pH (cnt : Nat) : Statement (.pH cnt) := matchedByte_token .pack .H cnt

theorem pi (cnt : Nat) : Statement (.pi cnt) := matchedByte_token .pack .i cnt

theorem pI (cnt : Nat) : Statement (.pI cnt) := matchedByte_token .pack .I cnt

theorem pq (cnt : Nat) : Statement (.pq cnt) := matchedByte_token .pack .q cnt

theorem pQ (cnt : Nat) : Statement (.pQ cnt) := matchedByte_token .pack .Q cnt

theorem pc (cnt : Nat) : Statement (.pc cnt) := matchedByte_token .pack .c cnt

theorem frameV1 (fr : FrameV1) : Statement (.frameV1 fr) := rfl

theorem frameV2 (fr : FrameV2) : Statement (.frameV2 fr) := rfl

end RowMatch

end Sys2Proof.Laws
end

