-- ==== Sys2Proof/Laws/State.lean ====
section
/-! SUPPORT. One lemma per field per update of the state, each true by unfolding the update once. -/

namespace Sys2Proof.Machine

/-! ### setCrc -/

@[simp] theorem State.setCrc_resid (c : Crc) (s : State) : (s.setCrc c).resid = s.resid := rfl
@[simp] theorem State.setCrc_trash (c : Crc) (s : State) : (s.setCrc c).trash = s.trash := rfl
@[simp] theorem State.setCrc_crcerr (c : Crc) (s : State) : (s.setCrc c).crcerr = s.crcerr := rfl
@[simp] theorem State.setCrc_unkmsg (c : Crc) (s : State) : (s.setCrc c).unkmsg = s.unkmsg := rfl
@[simp] theorem State.setCrc_parseerr (c : Crc) (s : State) : (s.setCrc c).parseerr = s.parseerr := rfl
@[simp] theorem State.setCrc_pkts (c : Crc) (s : State) : (s.setCrc c).pkts = s.pkts := rfl
@[simp] theorem State.setCrc_fault (c : Crc) (s : State) : (s.setCrc c).fault = s.fault := rfl
@[simp] theorem State.setCrc_crc (c : Crc) (s : State) : (s.setCrc c).crc = c := rfl
@[simp] theorem State.setCrc_run (c : Crc) (s : State) : (s.setCrc c).run = s.run := rfl
@[simp] theorem State.setCrc_cmd (c : Crc) (s : State) : (s.setCrc c).cmd = s.cmd := rfl
@[simp] theorem State.setCrc_rsp (c : Crc) (s : State) : (s.setCrc c).rsp = s.rsp := rfl
@[simp] theorem State.setCrc_msg (c : Crc) (s : State) : (s.setCrc c).msg = s.msg := rfl
@[simp] theorem State.setCrc_registry (c : Crc) (s : State) : (s.setCrc c).registry = s.registry := rfl
@[simp] theorem State.setCrc_free (c : Crc) (s : State) : (s.setCrc c).free = s.free := rfl

/-! ### setResid -/

@[simp] theorem State.setResid_resid (B : Bytes) (s : State) : (s.setResid B).resid = B := rfl
@[simp] theorem State.setResid_trash (B : Bytes) (s : State) : (s.setResid B).trash = s.trash := rfl
@[simp] theorem State.setResid_crcerr (B : Bytes) (s : State) : (s.setResid B).crcerr = s.crcerr := rfl
@[simp] theorem State.setResid_unkmsg (B : Bytes) (s : State) : (s.setResid B).unkmsg = s.unkmsg := rfl
@[simp] theorem State.setResid_parseerr (B : Bytes) (s : State) : (s.setResid B).parseerr = s.parseerr := rfl
@[simp] theorem State.setResid_pkts (B : Bytes) (s : State) : (s.setResid B).pkts = s.pkts := rfl
@[simp] theorem State.setResid_fault (B : Bytes) (s : State) : (s.setResid B).fault = s.fault := rfl
@[simp] theorem State.setResid_crc (B : Bytes) (s : State) : (s.setResid B).crc = s.crc := rfl
@[simp] theorem State.setResid_run (B : Bytes) (s : State) : (s.setResid B).run = s.run := rfl
@[simp] theorem State.setResid_cmd (B : Bytes) (s : State) : (s.setResid B).cmd = s.cmd := rfl
@[simp] theorem State.setResid_rsp (B : Bytes) (s : State) : (s.setResid B).rsp = s.rsp := rfl
@[simp] theorem State.setResid_msg (B : Bytes) (s : State) : (s.setResid B).msg = s.msg := rfl
@[simp] theorem State.setResid_registry (B : Bytes) (s : State) : (s.setResid B).registry = s.registry := rfl
@[simp] theorem State.setResid_free (B : Bytes) (s : State) : (s.setResid B).free = s.free := rfl

/-! ### countTrash -/

@[simp] theorem State.countTrash_resid (s : State) : (s.countTrash).resid = s.resid := rfl
@[simp] theorem State.countTrash_trash (s : State) : (s.countTrash).trash = s.trash + 1 := rfl
@[simp] theorem State.countTrash_crcerr (s : State) : (s.countTrash).crcerr = s.crcerr := rfl
@[simp] theorem State.countTrash_unkmsg (s : State) : (s.countTrash).unkmsg = s.unkmsg := rfl
@[simp] theorem State.countTrash_parseerr (s : State) : (s.countTrash).parseerr = s.parseerr := rfl
@[simp] theorem State.countTrash_pkts (s : State) : (s.countTrash).pkts = s.pkts := rfl
@[simp] theorem State.countTrash_fault (s : State) : (s.countTrash).fault = s.fault := rfl
@[simp] theorem State.countTrash_crc (s : State) : (s.countTrash).crc = s.crc := rfl
@[simp] theorem State.countTrash_run (s : State) : (s.countTrash).run = s.run := rfl
@[simp] theorem State.countTrash_cmd (s : State) : (s.countTrash).cmd = s.cmd := rfl
@[simp] theorem State.countTrash_rsp (s : State) : (s.countTrash).rsp = s.rsp := rfl
@[simp] theorem State.countTrash_msg (s : State) : (s.countTrash).msg = s.msg := rfl
@[simp] theorem State.countTrash_registry (s : State) : (s.countTrash).registry = s.registry := rfl
@[simp] theorem State.countTrash_free (s : State) : (s.countTrash).free = s.free := rfl

/-! ### countCrcErr -/

@[simp] theorem State.countCrcErr_resid (s : State) : (s.countCrcErr).resid = s.resid := rfl
@[simp] theorem State.countCrcErr_trash (s : State) : (s.countCrcErr).trash = s.trash := rfl
@[simp] theorem State.countCrcErr_crcerr (s : State) : (s.countCrcErr).crcerr = s.crcerr + 1 := rfl
@[simp] theorem State.countCrcErr_unkmsg (s : State) : (s.countCrcErr).unkmsg = s.unkmsg := rfl
@[simp] theorem State.countCrcErr_parseerr (s : State) : (s.countCrcErr).parseerr = s.parseerr := rfl
@[simp] theorem State.countCrcErr_pkts (s : State) : (s.countCrcErr).pkts = s.pkts := rfl
@[simp] theorem State.countCrcErr_fault (s : State) : (s.countCrcErr).fault = s.fault := rfl
@[simp] theorem State.countCrcErr_crc (s : State) : (s.countCrcErr).crc = s.crc := rfl
@[simp] theorem State.countCrcErr_run (s : State) : (s.countCrcErr).run = s.run := rfl
@[simp] theorem State.countCrcErr_cmd (s : State) : (s.countCrcErr).cmd = s.cmd := rfl
@[simp] theorem State.countCrcErr_rsp (s : State) : (s.countCrcErr).rsp = s.rsp := rfl
@[simp] theorem State.countCrcErr_msg (s : State) : (s.countCrcErr).msg = s.msg := rfl
@[simp] theorem State.countCrcErr_registry (s : State) : (s.countCrcErr).registry = s.registry := rfl
@[simp] theorem State.countCrcErr_free (s : State) : (s.countCrcErr).free = s.free := rfl

/-! ### countUnkMsg -/

@[simp] theorem State.countUnkMsg_resid (s : State) : (s.countUnkMsg).resid = s.resid := rfl
@[simp] theorem State.countUnkMsg_trash (s : State) : (s.countUnkMsg).trash = s.trash := rfl
@[simp] theorem State.countUnkMsg_crcerr (s : State) : (s.countUnkMsg).crcerr = s.crcerr := rfl
@[simp] theorem State.countUnkMsg_unkmsg (s : State) : (s.countUnkMsg).unkmsg = s.unkmsg + 1 := rfl
@[simp] theorem State.countUnkMsg_parseerr (s : State) : (s.countUnkMsg).parseerr = s.parseerr := rfl
@[simp] theorem State.countUnkMsg_pkts (s : State) : (s.countUnkMsg).pkts = s.pkts := rfl
@[simp] theorem State.countUnkMsg_fault (s : State) : (s.countUnkMsg).fault = s.fault := rfl
@[simp] theorem State.countUnkMsg_crc (s : State) : (s.countUnkMsg).crc = s.crc := rfl
@[simp] theorem State.countUnkMsg_run (s : State) : (s.countUnkMsg).run = s.run := rfl
@[simp] theorem State.countUnkMsg_cmd (s : State) : (s.countUnkMsg).cmd = s.cmd := rfl
@[simp] theorem State.countUnkMsg_rsp (s : State) : (s.countUnkMsg).rsp = s.rsp := rfl
@[simp] theorem State.countUnkMsg_msg (s : State) : (s.countUnkMsg).msg = s.msg := rfl
@[simp] theorem State.countUnkMsg_registry (s : State) : (s.countUnkMsg).registry = s.registry := rfl
@[simp] theorem State.countUnkMsg_free (s : State) : (s.countUnkMsg).free = s.free := rfl

/-! ### countParseErr -/

@[simp] theorem State.countParseErr_resid (s : State) : (s.countParseErr).resid = s.resid := rfl
@[simp] theorem State.countParseErr_trash (s : State) : (s.countParseErr).trash = s.trash := rfl
@[simp] theorem State.countParseErr_crcerr (s : State) : (s.countParseErr).crcerr = s.crcerr := rfl
@[simp] theorem State.countParseErr_unkmsg (s : State) : (s.countParseErr).unkmsg = s.unkmsg := rfl
@[simp] theorem State.countParseErr_parseerr (s : State) : (s.countParseErr).parseerr = s.parseerr + 1 := rfl
@[simp] theorem State.countParseErr_pkts (s : State) : (s.countParseErr).pkts = s.pkts := rfl
@[simp] theorem State.countParseErr_fault (s : State) : (s.countParseErr).fault = s.fault := rfl
@[simp] theorem State.countParseErr_crc (s : State) : (s.countParseErr).crc = s.crc := rfl
@[simp] theorem State.countParseErr_run (s : State) : (s.countParseErr).run = s.run := rfl
@[simp] theorem State.countParseErr_cmd (s : State) : (s.countParseErr).cmd = s.cmd := rfl
@[simp] theorem State.countParseErr_rsp (s : State) : (s.countParseErr).rsp = s.rsp := rfl
@[simp] theorem State.countParseErr_msg (s : State) : (s.countParseErr).msg = s.msg := rfl
@[simp] theorem State.countParseErr_registry (s : State) : (s.countParseErr).registry = s.registry := rfl
@[simp] theorem State.countParseErr_free (s : State) : (s.countParseErr).free = s.free := rfl

/-! ### countPkt -/

@[simp] theorem State.countPkt_resid (s : State) : (s.countPkt).resid = s.resid := rfl
@[simp] theorem State.countPkt_trash (s : State) : (s.countPkt).trash = s.trash := rfl
@[simp] theorem State.countPkt_crcerr (s : State) : (s.countPkt).crcerr = s.crcerr := rfl
@[simp] theorem State.countPkt_unkmsg (s : State) : (s.countPkt).unkmsg = s.unkmsg := rfl
@[simp] theorem State.countPkt_parseerr (s : State) : (s.countPkt).parseerr = s.parseerr := rfl
@[simp] theorem State.countPkt_pkts (s : State) : (s.countPkt).pkts = s.pkts + 1 := rfl
@[simp] theorem State.countPkt_fault (s : State) : (s.countPkt).fault = s.fault := rfl
@[simp] theorem State.countPkt_crc (s : State) : (s.countPkt).crc = s.crc := rfl
@[simp] theorem State.countPkt_run (s : State) : (s.countPkt).run = s.run := rfl
@[simp] theorem State.countPkt_cmd (s : State) : (s.countPkt).cmd = s.cmd := rfl
@[simp] theorem State.countPkt_rsp (s : State) : (s.countPkt).rsp = s.rsp := rfl
@[simp] theorem State.countPkt_msg (s : State) : (s.countPkt).msg = s.msg := rfl
@[simp] theorem State.countPkt_registry (s : State) : (s.countPkt).registry = s.registry := rfl
@[simp] theorem State.countPkt_free (s : State) : (s.countPkt).free = s.free := rfl

/-! ### setRun -/

@[simp] theorem State.setRun_resid (r : Run) (s : State) : (s.setRun r).resid = s.resid := rfl
@[simp] theorem State.setRun_trash (r : Run) (s : State) : (s.setRun r).trash = s.trash := rfl
@[simp] theorem State.setRun_crcerr (r : Run) (s : State) : (s.setRun r).crcerr = s.crcerr := rfl
@[simp] theorem State.setRun_unkmsg (r : Run) (s : State) : (s.setRun r).unkmsg = s.unkmsg := rfl
@[simp] theorem State.setRun_parseerr (r : Run) (s : State) : (s.setRun r).parseerr = s.parseerr := rfl
@[simp] theorem State.setRun_pkts (r : Run) (s : State) : (s.setRun r).pkts = s.pkts := rfl
@[simp] theorem State.setRun_fault (r : Run) (s : State) : (s.setRun r).fault = s.fault := rfl
@[simp] theorem State.setRun_crc (r : Run) (s : State) : (s.setRun r).crc = s.crc := rfl
@[simp] theorem State.setRun_run (r : Run) (s : State) : (s.setRun r).run = r := rfl
@[simp] theorem State.setRun_cmd (r : Run) (s : State) : (s.setRun r).cmd = s.cmd := rfl
@[simp] theorem State.setRun_rsp (r : Run) (s : State) : (s.setRun r).rsp = s.rsp := rfl
@[simp] theorem State.setRun_msg (r : Run) (s : State) : (s.setRun r).msg = s.msg := rfl
@[simp] theorem State.setRun_registry (r : Run) (s : State) : (s.setRun r).registry = s.registry := rfl
@[simp] theorem State.setRun_free (r : Run) (s : State) : (s.setRun r).free = s.free := rfl

/-! ### popCmd -/

@[simp] theorem State.popCmd_resid (s : State) : (s.popCmd).resid = s.resid := rfl
@[simp] theorem State.popCmd_trash (s : State) : (s.popCmd).trash = s.trash := rfl
@[simp] theorem State.popCmd_crcerr (s : State) : (s.popCmd).crcerr = s.crcerr := rfl
@[simp] theorem State.popCmd_unkmsg (s : State) : (s.popCmd).unkmsg = s.unkmsg := rfl
@[simp] theorem State.popCmd_parseerr (s : State) : (s.popCmd).parseerr = s.parseerr := rfl
@[simp] theorem State.popCmd_pkts (s : State) : (s.popCmd).pkts = s.pkts := rfl
@[simp] theorem State.popCmd_fault (s : State) : (s.popCmd).fault = s.fault := rfl
@[simp] theorem State.popCmd_crc (s : State) : (s.popCmd).crc = s.crc := rfl
@[simp] theorem State.popCmd_run (s : State) : (s.popCmd).run = s.run := rfl
@[simp] theorem State.popCmd_cmd (s : State) : (s.popCmd).cmd = s.cmd.tail := rfl
@[simp] theorem State.popCmd_rsp (s : State) : (s.popCmd).rsp = s.rsp := rfl
@[simp] theorem State.popCmd_msg (s : State) : (s.popCmd).msg = s.msg := rfl
@[simp] theorem State.popCmd_registry (s : State) : (s.popCmd).registry = s.registry := rfl
@[simp] theorem State.popCmd_free (s : State) : (s.popCmd).free = s.free := rfl

/-! ### respond -/

@[simp] theorem State.respond_resid (r : Response) (s : State) : (s.respond r).resid = s.resid := rfl
@[simp] theorem State.respond_trash (r : Response) (s : State) : (s.respond r).trash = s.trash := rfl
@[simp] theorem State.respond_crcerr (r : Response) (s : State) : (s.respond r).crcerr = s.crcerr := rfl
@[simp] theorem State.respond_unkmsg (r : Response) (s : State) : (s.respond r).unkmsg = s.unkmsg := rfl
@[simp] theorem State.respond_parseerr (r : Response) (s : State) : (s.respond r).parseerr = s.parseerr := rfl
@[simp] theorem State.respond_pkts (r : Response) (s : State) : (s.respond r).pkts = s.pkts := rfl
@[simp] theorem State.respond_fault (r : Response) (s : State) : (s.respond r).fault = s.fault := rfl
@[simp] theorem State.respond_crc (r : Response) (s : State) : (s.respond r).crc = s.crc := rfl
@[simp] theorem State.respond_run (r : Response) (s : State) : (s.respond r).run = .idle := rfl
@[simp] theorem State.respond_cmd (r : Response) (s : State) : (s.respond r).cmd = s.cmd := rfl
@[simp] theorem State.respond_rsp (r : Response) (s : State) : (s.respond r).rsp = s.rsp ++ [r] := rfl
@[simp] theorem State.respond_msg (r : Response) (s : State) : (s.respond r).msg = s.msg := rfl
@[simp] theorem State.respond_registry (r : Response) (s : State) : (s.respond r).registry = s.registry := rfl
@[simp] theorem State.respond_free (r : Response) (s : State) : (s.respond r).free = s.free := rfl

/-! ### notify -/

@[simp] theorem State.notify_resid (m : Message) (s : State) : (s.notify m).resid = s.resid := rfl
@[simp] theorem State.notify_trash (m : Message) (s : State) : (s.notify m).trash = s.trash := rfl
@[simp] theorem State.notify_crcerr (m : Message) (s : State) : (s.notify m).crcerr = s.crcerr := rfl
@[simp] theorem State.notify_unkmsg (m : Message) (s : State) : (s.notify m).unkmsg = s.unkmsg := rfl
@[simp] theorem State.notify_parseerr (m : Message) (s : State) : (s.notify m).parseerr = s.parseerr := rfl
@[simp] theorem State.notify_pkts (m : Message) (s : State) : (s.notify m).pkts = s.pkts := rfl
@[simp] theorem State.notify_fault (m : Message) (s : State) : (s.notify m).fault = s.fault := rfl
@[simp] theorem State.notify_crc (m : Message) (s : State) : (s.notify m).crc = s.crc := rfl
@[simp] theorem State.notify_run (m : Message) (s : State) : (s.notify m).run = s.run := rfl
@[simp] theorem State.notify_cmd (m : Message) (s : State) : (s.notify m).cmd = s.cmd := rfl
@[simp] theorem State.notify_rsp (m : Message) (s : State) : (s.notify m).rsp = s.rsp := rfl
@[simp] theorem State.notify_msg (m : Message) (s : State) : (s.notify m).msg = s.msg ++ [m] := rfl
@[simp] theorem State.notify_registry (m : Message) (s : State) : (s.notify m).registry = s.registry := rfl
@[simp] theorem State.notify_free (m : Message) (s : State) : (s.notify m).free = s.free := rfl

/-! ### resetRegs -/

@[simp] theorem State.resetRegs_resid (s : State) : (s.resetRegs).resid = [] := rfl
@[simp] theorem State.resetRegs_trash (s : State) : (s.resetRegs).trash = 0 := rfl
@[simp] theorem State.resetRegs_crcerr (s : State) : (s.resetRegs).crcerr = 0 := rfl
@[simp] theorem State.resetRegs_unkmsg (s : State) : (s.resetRegs).unkmsg = 0 := rfl
@[simp] theorem State.resetRegs_parseerr (s : State) : (s.resetRegs).parseerr = 0 := rfl
@[simp] theorem State.resetRegs_pkts (s : State) : (s.resetRegs).pkts = 0 := rfl
@[simp] theorem State.resetRegs_fault (s : State) : (s.resetRegs).fault = none := rfl
@[simp] theorem State.resetRegs_crc (s : State) : (s.resetRegs).crc = Config.crcInit := rfl
@[simp] theorem State.resetRegs_run (s : State) : (s.resetRegs).run = s.run := rfl
@[simp] theorem State.resetRegs_cmd (s : State) : (s.resetRegs).cmd = s.cmd := rfl
@[simp] theorem State.resetRegs_rsp (s : State) : (s.resetRegs).rsp = s.rsp := rfl
@[simp] theorem State.resetRegs_msg (s : State) : (s.resetRegs).msg = s.msg := rfl
@[simp] theorem State.resetRegs_registry (s : State) : (s.resetRegs).registry = s.registry := rfl
@[simp] theorem State.resetRegs_free (s : State) : (s.resetRegs).free = s.free := rfl

/-! ### takeFault -/

@[simp] theorem State.takeFault_resid (id : MsgId) (cause : ErrorCode) (s : State) : (s.takeFault id cause).resid = (Config.freeBytes s.free).take Config.residMax := rfl
@[simp] theorem State.takeFault_trash (id : MsgId) (cause : ErrorCode) (s : State) : (s.takeFault id cause).trash = Config.freeNat s.free := rfl
@[simp] theorem State.takeFault_crcerr (id : MsgId) (cause : ErrorCode) (s : State) : (s.takeFault id cause).crcerr = Config.freeNat (s.free + 1) := rfl
@[simp] theorem State.takeFault_unkmsg (id : MsgId) (cause : ErrorCode) (s : State) : (s.takeFault id cause).unkmsg = Config.freeNat (s.free + 2) := rfl
@[simp] theorem State.takeFault_parseerr (id : MsgId) (cause : ErrorCode) (s : State) : (s.takeFault id cause).parseerr = Config.freeNat (s.free + 3) := rfl
@[simp] theorem State.takeFault_pkts (id : MsgId) (cause : ErrorCode) (s : State) : (s.takeFault id cause).pkts = Config.freeNat (s.free + 4) := rfl
@[simp] theorem State.takeFault_fault (id : MsgId) (cause : ErrorCode) (s : State) : (s.takeFault id cause).fault = some .fFormat := rfl
@[simp] theorem State.takeFault_crc (id : MsgId) (cause : ErrorCode) (s : State) : (s.takeFault id cause).crc = s.crc := rfl
@[simp] theorem State.takeFault_run (id : MsgId) (cause : ErrorCode) (s : State) : (s.takeFault id cause).run = .idle := rfl
@[simp] theorem State.takeFault_cmd (id : MsgId) (cause : ErrorCode) (s : State) : (s.takeFault id cause).cmd = s.cmd := rfl
@[simp] theorem State.takeFault_rsp (id : MsgId) (cause : ErrorCode) (s : State) : (s.takeFault id cause).rsp = s.rsp ++ [.fault .fFormat id cause] := rfl
@[simp] theorem State.takeFault_msg (id : MsgId) (cause : ErrorCode) (s : State) : (s.takeFault id cause).msg = s.msg := rfl
@[simp] theorem State.takeFault_registry (id : MsgId) (cause : ErrorCode) (s : State) : (s.takeFault id cause).registry = s.registry := rfl
@[simp] theorem State.takeFault_free (id : MsgId) (cause : ErrorCode) (s : State) : (s.takeFault id cause).free = s.free + 5 := rfl

/-! ### Verdicts -/

@[simp] theorem State.countVerdict_ok (s : State) : s.countVerdict .ok = s.countPkt := rfl
@[simp] theorem State.countVerdict_unknownId (s : State) : s.countVerdict .unknownId = s.countUnkMsg := rfl
@[simp] theorem State.countVerdict_crc (s : State) : s.countVerdict .crc = s.countCrcErr := rfl
@[simp] theorem State.countVerdict_decode (s : State) : s.countVerdict .decode = s.countParseErr := rfl

end Sys2Proof.Machine
end

