-- ==== Sys2Proof/Laws/Steps.lean ====
section
/-! SUPPORT. What each shared operation can do, said once: the host commands, the token steps, a candidate frame, a
micro-step of the parser and the parser's loop. Proofs cite these and unfold none of the operations. -/

namespace Sys2Proof.Machine

/-! ## Host commands -/

theorem State.command_idle {s : State} (f : State → State) (h : s.run = .idle) : s.command f = .next (f s) := by
  rw [State.command, h]

theorem State.command_busy {s : State} (f : State → State) (h : s.run ≠ .idle) :
    s.command f = .fault .concurrentDrive := by
  unfold State.command
  cases hr : s.run with
  | idle => exact absurd hr h
  | unpack r => rfl
  | pack r => rfl
  | parse p => rfl

/-- A command gives a next state from an idle instance only, and then that state is its effect. -/
theorem State.command_next {s t : State} {f : State → State} (h : s.command f = .next t) : s.run = .idle ∧ t = f s := by
  unfold State.command at h
  cases hr : s.run with
  | idle => rw [hr] at h; exact ⟨rfl, (Host.Outcome.next.inj h).symm⟩
  | unpack r => rw [hr] at h; cases h
  | pack r => rw [hr] at h; cases h
  | parse p => rw [hr] at h; cases h

/-! ## Token steps -/

/-- An unpack token with room in the buffer. -/
theorem unpackStep_fits {micro : Bytes → Nat → Nat → Value} {w cnt : Nat} {s : State} {r : UnpackRun}
    (hr : s.run = .unpack r) (h : r.cur + cnt * w ≤ r.buf.length) :
    unpackStep micro w cnt s = .next (s.setRun (.unpack { r with
      m := r.m ++ [(r.names.getD r.ti [], micro r.buf r.cur cnt)], cur := r.cur + cnt * w, ti := r.ti + 1 })) := by
  rw [unpackStep, hr]
  simp [Nat.not_lt.mpr h]

/-- An unpack token past the end of the buffer. -/
theorem unpackStep_past_end {micro : Bytes → Nat → Nat → Value} {w cnt : Nat} {s : State} {r : UnpackRun}
    (hr : s.run = .unpack r) (h : r.buf.length < r.cur + cnt * w) :
    unpackStep micro w cnt s = .next (raiseDecode r s) := by
  rw [unpackStep, hr]
  simp [h]

/-- All an unpack token can do. -/
theorem unpackStep_cases {micro : Bytes → Nat → Nat → Value} {w cnt : Nat} {s t : State}
    (h : unpackStep micro w cnt s = .next t) :
    ∃ r, s.run = .unpack r ∧
      (r.buf.length < r.cur + cnt * w ∧ t = raiseDecode r s ∨
        r.cur + cnt * w ≤ r.buf.length ∧ t = s.setRun (.unpack { r with
          m := r.m ++ [(r.names.getD r.ti [], micro r.buf r.cur cnt)], cur := r.cur + cnt * w, ti := r.ti + 1 })) := by
  cases hr : s.run with
  | idle => rw [unpackStep, hr] at h; cases h
  | pack r => rw [unpackStep, hr] at h; cases h
  | parse p => rw [unpackStep, hr] at h; cases h
  | unpack r =>
    refine ⟨r, rfl, ?_⟩
    rcases Nat.lt_or_ge r.buf.length (r.cur + cnt * w) with hlt | hge
    · rw [unpackStep_past_end hr hlt] at h
      exact .inl ⟨hlt, (Host.Outcome.next.inj h).symm⟩
    · rw [unpackStep_fits hr hge] at h
      exact .inr ⟨hge, (Host.Outcome.next.inj h).symm⟩

theorem unpackStep_elsewhere {micro : Bytes → Nat → Nat → Value} {w cnt : Nat} {s : State}
    (h : ∀ r, s.run ≠ .unpack r) : unpackStep micro w cnt s = .fault .noTokenProgram := by
  unfold unpackStep
  cases hr : s.run with
  | idle => rfl
  | unpack r => exact absurd hr (h r)
  | pack r => rfl
  | parse p => rfl

/-- All a pack token can do. -/
theorem packStep_cases {micro : Bytes → Nat → Nat → Value → Option Bytes} {w cnt : Nat} {s t : State}
    (h : packStep micro w cnt s = .next t) :
    ∃ r, s.run = .pack r ∧
      (r.out.length < r.cur + cnt * w ∧ t = s.respond (.error .eBounds) ∨
        r.cur + cnt * w ≤ r.out.length ∧
          (packField micro r.out r.cur cnt (fieldValue r.map (r.names.getD r.ti [])) = none ∧
              t = s.respond (.error .eValue) ∨
            ∃ out, packField micro r.out r.cur cnt (fieldValue r.map (r.names.getD r.ti [])) = some out ∧
              t = s.setRun (.pack { r with out := out, cur := r.cur + cnt * w, ti := r.ti + 1 }))) := by
  cases hr : s.run with
  | idle => rw [packStep, hr] at h; cases h
  | unpack r => rw [packStep, hr] at h; cases h
  | parse p => rw [packStep, hr] at h; cases h
  | pack r =>
    refine ⟨r, rfl, ?_⟩
    rw [packStep, hr] at h
    dsimp only at h
    split at h
    · exact .inl ⟨‹_›, (Host.Outcome.next.inj h).symm⟩
    · refine .inr ⟨Nat.not_lt.mp ‹_›, ?_⟩
      split at h
      · exact .inl ⟨‹_›, (Host.Outcome.next.inj h).symm⟩
      · exact .inr ⟨_, ‹_›, (Host.Outcome.next.inj h).symm⟩

theorem packStep_elsewhere {micro : Bytes → Nat → Nat → Value → Option Bytes} {w cnt : Nat} {s : State}
    (h : ∀ r, s.run ≠ .pack r) : packStep micro w cnt s = .fault .noTokenProgram := by
  unfold packStep
  cases hr : s.run with
  | idle => rfl
  | unpack r => rfl
  | pack r => exact absurd hr (h r)
  | parse p => rfl

/-- A token of the unpack direction is one `unpackStep` of its microcodelet and width. -/
theorem exec_unpack_token (t : Token) (s : State) :
    exec (t.instr .unpack) s = unpackStep (microU t.code) t.code.width t.count s := by
  obtain ⟨count, code⟩ := t
  cases code <;> rfl

/-- A token of the pack direction is one `packStep` of its microcodelet and width. -/
theorem exec_pack_token (t : Token) (s : State) :
    exec (t.instr .pack) s = packStep (microP t.code) t.code.width t.count s := by
  obtain ⟨count, code⟩ := t
  cases code <;> rfl

/-! ## Candidate frames -/

theorem exec_frame (fr : Frame) (s : State) : exec fr.instr s = frameStep (candidateOf fr) s := by
  cases fr <;> rfl

theorem frameStep_parse {c : Candidate} {s : State} {p : ParseRun} (h : s.run = .parse p) :
    frameStep c s = .next (runCandidate c p s) := by
  rw [frameStep, h]

theorem frameStep_elsewhere {c : Candidate} {s : State} (h : ∀ p, s.run ≠ .parse p) :
    frameStep c s = .fault .noParse := by
  unfold frameStep
  cases hr : s.run with
  | idle => rfl
  | unpack r => rfl
  | pack r => rfl
  | parse p => exact absurd hr (h p)

/-- All a candidate frame can find, in the order of the tests (R226). -/
theorem judge_cases (registry : List Descriptor) (c : Candidate) :
    (lookupIn registry c.hdr.messageId = none ∧ judge registry c = .unknownId) ∨
    ∃ d, lookupIn registry c.hdr.messageId = some d ∧
      ((c.acc d ≠ c.tx ∧ judge registry c = .crc (c.acc d)) ∨
        c.acc d = c.tx ∧
          ((∃ e, unpack (padPayload c.payload d.maxPayloadLen) d.wireFormat d.fields = .error (.defect e) ∧
              judge registry c = .defect (c.acc d) e) ∨
            (unpack (padPayload c.payload d.maxPayloadLen) d.wireFormat d.fields = .error .decode ∧
              judge registry c = .decode (c.acc d)) ∨
            ∃ m, unpack (padPayload c.payload d.maxPayloadLen) d.wireFormat d.fields = .ok m ∧
              judge registry c = .message (c.acc d) ⟨c.hdr, m, c.sig⟩)) := by
  unfold judge
  cases hl : lookupIn registry c.hdr.messageId with
  | none => exact .inl ⟨rfl, rfl⟩
  | some d =>
    refine .inr ⟨d, rfl, ?_⟩
    dsimp only
    by_cases hc : c.acc d = c.tx
    · refine .inr ⟨hc, ?_⟩
      rw [if_neg (by simpa using hc)]
      cases hu : unpack (padPayload c.payload d.maxPayloadLen) d.wireFormat d.fields with
      | ok m => exact .inr (.inr ⟨m, rfl, rfl⟩)
      | error e =>
        cases e with
        | defect e => exact .inl ⟨e, rfl, rfl⟩
        | decode => exact .inr (.inl ⟨rfl, rfl⟩)
    · exact .inl ⟨hc, by rw [if_pos hc]⟩

/-- What a candidate frame does to the state: the PARSE goes on with `W` and `SC` as they were and one counter moved by
1, or the fault is taken. -/
theorem runCandidate_cases (c : Candidate) (p : ParseRun) (s : State) :
    (∃ d, runCandidate c p s = s.takeFault c.hdr.messageId d) ∨
    ∃ q, q.w = p.w ∧ q.sc = p.sc ∧
      ((q = p ∧ runCandidate c p s = (s.countVerdict .unknownId).setRun (.parse q)) ∨
        (q.out = p.out ∧ (runCandidate c p s = (s.countVerdict .crc).setRun (.parse q) ∨
          runCandidate c p s = (s.countVerdict .decode).setRun (.parse q))) ∨
        ∃ m, q.out = p.out ++ [m] ∧
          runCandidate c p s = ((s.countVerdict .ok).setRun (.parse q)).notify m) := by
  unfold runCandidate
  cases judge s.registry c with
  | unknownId => exact .inr ⟨p, rfl, rfl, .inl ⟨rfl, rfl⟩⟩
  | crc acc => exact .inr ⟨{ p with acc := acc }, rfl, rfl, .inr (.inl ⟨rfl, .inl rfl⟩)⟩
  | defect acc d => exact .inl ⟨d.error, rfl⟩
  | decode acc => exact .inr ⟨{ p with acc := acc }, rfl, rfl, .inr (.inl ⟨rfl, .inr rfl⟩)⟩
  | message acc m =>
    exact .inr ⟨{ p with acc := acc, out := p.out ++ [m] }, rfl, rfl, .inr (.inr ⟨m, rfl, rfl⟩)⟩

/-! ## The parser -/

/-- A complete frame at the scan cursor has at least the 8 bytes of an empty v1 frame (R210). -/
theorem decodeFrame_total {bs : Bytes} {fr : Frame} {total : Nat} (h : decodeFrame bs = .ok (fr, total)) :
    8 ≤ total ∧ total ≤ bs.length := by
  unfold decodeFrame at h
  cases bs with
  | nil => cases h
  | cons b bs =>
    dsimp only at h
    split at h
    · split at h
      · cases h
      · split at h
        · cases h
        · cases h
          refine ⟨?_, Nat.not_lt.mp ‹_›⟩
          simp only [totalV1, Config.hlV1, Config.crcLen]
          omega
    · split at h
      · split at h
        · cases h
        · split at h
          · cases h
          · cases h
            refine ⟨?_, Nat.not_lt.mp ‹_›⟩
            simp only [totalV2, Config.hlV2, Config.crcLen]
            omega
      · cases h

/-- All a micro-step of the parser can do (R195): end the command, pass over a trash byte, or run a frame the cursor has
passed. -/
theorem parseMicro_cases (p : ParseRun) (s : State) :
    (∃ resid, (resid = [] ∨ resid = p.rest) ∧ parseMicro p s = endParse resid p s) ∨
    (parseMicro p s = scanTrash p s ∧ p.sc < p.w.length) ∨
    ∃ fr total, decodeFrame p.rest = .ok (fr, total) ∧
      parseMicro p s = runCandidate (candidateOf fr) (p.advance total) s := by
  unfold parseMicro parseAction
  cases hd : decodeFrame p.rest with
  | ok x => exact .inr (.inr ⟨x.1, x.2, rfl, rfl⟩)
  | error e =>
    cases e with
    | empty => exact .inl ⟨[], .inl rfl, rfl⟩
    | headerWait => exact .inl ⟨p.rest, .inr rfl, rfl⟩
    | frameWait => exact .inl ⟨p.rest, .inr rfl, rfl⟩
    | notMarker =>
      refine .inr (.inl ⟨rfl, ?_⟩)
      by_contra hge
      have hnil : p.rest = [] := List.drop_eq_nil_of_le (Nat.not_lt.mp hge)
      rw [hnil] at hd
      cases hd

theorem parseLoop_idle {s : State} (fuel : Nat) (h : s.run = .idle) : parseLoop fuel s = s := by
  cases fuel with
  | zero => rfl
  | succ fuel => rw [parseLoop, h]

theorem parseLoop_parse {s : State} {p : ParseRun} (fuel : Nat) (h : s.run = .parse p) :
    parseLoop (fuel + 1) s = parseLoop fuel (parseMicro p s) := by
  rw [parseLoop, h]

/-- A step of the machine in the middle of a PARSE is a micro-step. -/
theorem step_parse {s : State} {p : ParseRun} (h : s.run = .parse p) : step s = .next (parseMicro p s) := by
  rw [step, h]
  unfold stepParse parseMicro
  dsimp only
  cases parseAction p with
  | exhausted => rfl
  | trash => rfl
  | wait => rfl
  | frame fr total =>
    dsimp only
    rw [exec_frame, frameStep_parse (State.setRun_run _ _)]
    rfl

/-! ## Between commands -/

theorem step_command {s : State} {c : Command} {rest : List Command} {i : Instr} (hr : s.run = .idle)
    (hc : s.cmd = c :: rest) (hd : decodeCommand c = .ok i) : step s = exec i s.popCmd := by
  rw [step, hr]
  simp only [stepIdle, hc, hd]

end Sys2Proof.Machine
end

