-- ==== Sys2Proof/Laws/Tokens.lean ====
section
/-! SUPPORT. The laws of the tokenizer, one for each kind of character, and of the tokens it answers. -/

namespace Sys2Proof

@[simp] theorem typeCodeOf_char (code : TypeCode) : typeCodeOf code.char = some code := by cases code <;> decide

@[simp] theorem digitOf_char (code : TypeCode) : digitOf code.char = none := by cases code <;> decide

theorem digitOf_digitChar {d : Nat} (h : d < 10) : digitOf (digitChar d) = some d := by
  have hd : (digitChar d).toNat = 0x30 + d := by simp [digitChar]; omega
  rw [digitOf, if_pos (by omega), hd]
  simp

/-- The count a token is read with (R84). -/
theorem charStep_code (n : Option Nat) (code : TypeCode) (h : n ≠ some 0) :
    charStep n code.char = .ok (.token ⟨n.getD 1, code⟩) := by
  cases n with
  | none => simp [charStep]
  | some m => have hm : m ≠ 0 := fun h0 => h (by rw [h0]); simp [charStep, hm]

theorem charStep_zeroCount (code : TypeCode) : charStep (some 0) code.char = .error .zeroCount := by
  simp [charStep]

theorem charStep_digit (n : Option Nat) {d : Nat} (h : d < 10) :
    charStep n (digitChar d) = .ok (.digit (10 * n.getD 0 + d)) := by
  cases n <;> simp [charStep, digitOf_digitChar h]

/-- All a token can come from: a code character and the count before it, which is not 0. -/
theorem charStep_token {n : Option Nat} {ch : Byte} {t : Token} (h : charStep n ch = .ok (.token t)) :
    typeCodeOf ch = some t.code ∧ t.count = n.getD 1 ∧ 1 ≤ t.count := by
  unfold charStep at h
  split at h
  · cases h
  · split at h
    · cases n with
      | none => cases h; exact ⟨‹_›, rfl, le_refl 1⟩
      | some m =>
        dsimp only at h
        split at h
        · cases h
        · cases h; exact ⟨‹_›, rfl, Nat.one_le_iff_ne_zero.mpr ‹_›⟩
    · cases h

namespace Machine

theorem tokenizeFrom_digit {n : Option Nat} {d : Nat} (h : d < 10) (rest : Bytes) :
    tokenizeFrom n (digitChar d :: rest) = tokenizeFrom (some (10 * n.getD 0 + d)) rest := by
  rw [tokenizeFrom, charStep_digit n h]

theorem tokenizeFrom_code {n : Option Nat} (h : n ≠ some 0) (code : TypeCode) {rest : Bytes} {toks : List Token}
    (hr : tokenizeFrom none rest = .ok toks) :
    tokenizeFrom n (code.char :: rest) = .ok (⟨n.getD 1, code⟩ :: toks) := by
  rw [tokenizeFrom, charStep_code n code h]
  simp only [hr]

/-- Every token the tokenizer answers has a count of at least 1 (R102, R125). -/
theorem tokenizeFrom_count {fmt : Bytes} {n : Option Nat} {toks : List Token} (h : tokenizeFrom n fmt = .ok toks) :
    ∀ t ∈ toks, 1 ≤ t.count := by
  induction fmt generalizing n toks with
  | nil =>
    cases n with
    | none => cases h; simp
    | some m => cases h
  | cons ch rest ih =>
    rw [tokenizeFrom] at h
    split at h
    · cases h
    · exact ih h
    · rename_i t hstep
      split at h
      · cases h
      · rename_i ts hts
        cases h
        intro u hu
        rcases List.mem_cons.mp hu with rfl | hu
        · exact (charStep_token hstep).2.2
        · exact ih hts u hu

/-- What a program without a defect is (R133): its string tokenizes, the counts agree, the names are distinct. -/
theorem program_ok_iff {fmt : Bytes} {names : List FieldName} {toks : List Token} :
    program fmt names = .ok toks ↔ tokenize fmt = .ok toks ∧ toks.length = names.length ∧ names.Nodup := by
  unfold program
  cases ht : tokenize fmt with
  | error e => simp
  | ok ts =>
    dsimp only
    split
    · constructor
      · intro h; cases h
      · rintro ⟨h, hl, -⟩; cases h; exact absurd hl ‹_›
    · split
      · constructor
        · intro h; cases h
        · rintro ⟨-, -, hn⟩; exact absurd hn ‹_›
      · constructor
        · intro h; cases h; exact ⟨rfl, not_not.mp ‹_›, not_not.mp ‹_›⟩
        · rintro ⟨h, -, -⟩; cases h; rfl

end Machine

end Sys2Proof
end

