-- ==== Sys2Proof/Tests/Slice0.lean ====
section
/-! SUPPORT. Tests. Each expected result is taken from the spec: the vectors of spec/95_test_vectors.md, the examples and
corner cases of a rule, or the tables of spec/30_encoding.md. Then one witness for the hypotheses of each
    statement. -/

namespace Sys2Proof.Tests

open Sys2Proof.Machine Sys2Proof.Safety

/-! ## Fixtures (spec/95_test_vectors.md section 1) -/

/-- HEARTBEAT, with one-byte names. -/
def heartbeat : Descriptor := ⟨0, [], [0x49, 0x42, 0x42, 0x42, 0x42, 0x42], [[1], [2], [3], [4], [5], [6]], 9, 50⟩

/-- T_PAIR. -/
def pair : Descriptor := ⟨1, [], [0x48, 0x42], [[0x76], [0x6B]], 3, 7⟩

/-- T_EMPTY. -/
def empty : Descriptor := ⟨2, [], [], [], 0, 0⟩

/-- T_BAD: one token, two names. -/
def bad : Descriptor := ⟨3, [], [0x32, 0x42], [[0x61], [0x62]], 2, 1⟩

/-- T_SHORT: the fields need 5 bytes, the maximum is 3. -/
def short : Descriptor := ⟨4, [], [0x49, 0x42], [[0x61], [0x62]], 3, 9⟩

/-- A descriptor ENCODE refuses (R232). -/
def tooLong : Descriptor := ⟨5, [], [], [], 256, 0⟩

/-- A descriptor whose string does not tokenize. -/
def unreadable : Descriptor := ⟨6, [], [0x78], [[0x61]], 1, 0⟩

/-- A descriptor of id 74565 (R236). -/
def mixed : Descriptor := ⟨74565, [], [], [], 0, 0xA5⟩

/-- A reset instance over a Registry. -/
def blockOver (registry : List Descriptor) : State := { State.reset with registry := registry }

/-- The instance of the vectors. -/
def st : State := blockOver [heartbeat, pair, empty, bad, short, tooLong, unreadable, mixed]

/-- An instance whose Registry has no defect. -/
def sound : State := blockOver [heartbeat, pair]

/-- The fault, set. -/
def faulted : State := { st with fault := some .fFormat }

/-- PYMAV's frame (vector 5.A). -/
def frameA : FrameV1 := ⟨0x09, 0x80, 0x7B, 0xD4, 0x00, [0x04, 0x00, 0x00, 0x00, 0x01, 0x02, 0x03, 0x05, 0x01], 0xAF42⟩

/-- Its bytes. -/
def bytesA : Bytes := [0xFE, 0x09, 0x80, 0x7B, 0xD4, 0x00, 0x04, 0x00, 0x00, 0x00, 0x01, 0x02, 0x03, 0x05, 0x01,
    0x42, 0xAF]

/-- A signature block with the tag A1 .. A6 (R187). -/
def block : SigBlock := ⟨0x03, 0xBC9A78563412, ⟨0xA1, 0xA2, 0xA3, 0xA4, 0xA5, 0xA6⟩⟩

/-- The signed frame of vector E14. -/
def frameS : FrameV2 := ⟨0x03, 0x01, 0x00, 0x07, 0x01, 0x02, 0x000001, [0x34, 0x12, 0x56], 0x5BAF, some block⟩

/-- The v2 frame of an empty descriptor (vector E7). -/
def frameE : FrameV2 := ⟨0x00, 0x00, 0x00, 0x05, 0x01, 0x01, 0x000002, [], 0x5A3D, none⟩

/-- A PARSE about to look at `w`. -/
def parsing (s : State) (w : Bytes) : State := { s with run := .parse ⟨w, 0, [], 0⟩ }

/-- An unpack program of one token about to run over `buf`. -/
def unpacking (t : Token) (buf : Bytes) : State := { st with run := .unpack (startUnpack [t] buf [[0x61]] .host) }

/-- A pack program of one token about to run into `buf`, with the value `v` for its field. -/
def packing (t : Token) (v : Value) (buf : Bytes) : State :=
  { st with run := .pack (startPack [([0x61], v)] [t] [[0x61]] buf 0 .host) }

/-- What an instruction answers from a state in which nothing has been answered yet. -/
def answer (i : Instr) (s : State) : Option Response :=
  match exec i s with
  | .next t => t.rsp.head?
  | .fault _ => none
  | .refused _ => none

/-- The value an unpack token puts into the mapping, and where it leaves `CUR` and `TI`. -/
def readBy (i : Instr) (s : State) : Option (Mapping × Nat × Nat) :=
  match exec i s with
  | .next t =>
    match t.run with
    | .unpack r => some (r.m, r.cur, r.ti)
    | .idle => none
    | .pack _ => none
    | .parse _ => none
  | .fault _ => none
  | .refused _ => none

/-- The buffer a pack token leaves, and where it leaves `CUR` and `TI`. -/
def writtenBy (i : Instr) (s : State) : Option (Bytes × Nat × Nat) :=
  match exec i s with
  | .next t =>
    match t.run with
    | .pack r => some (r.out, r.cur, r.ti)
    | .idle => none
    | .unpack _ => none
    | .parse _ => none
  | .fault _ => none
  | .refused _ => none

/-- The response, the five counters in the order of R251, and RESID after a PARSE. -/
def parsed (chunk : Bytes) (s : State) : Option (Option Response × List Nat × Bytes) :=
  match exec (.parse chunk) s with
  | .next t => some (t.rsp.head?, [t.trash, t.crcerr, t.unkmsg, t.parseerr, t.pkts], t.resid)
  | .fault _ => none
  | .refused _ => none

/-! ## WellFormed: one ill-formed term for each check -/

theorem test_pack_of_repeated_name_is_ill_formed :
    Instr.wf (.pack [([1], .str []), ([1], .str [])] [] [] [] 0) = false := by decide

theorem test_encode_of_repeated_name_is_ill_formed :
    Instr.wf (.encode ⟨true, 0, 0, 0, 0, 0, 0, [([1], .str []), ([1], .str [])], none⟩) = false := by decide

theorem test_unpack_token_of_count_zero_is_ill_formed :
    [Instr.uf 0, .ud 0, .ub 0, .uB 0, .uh 0, .uH 0, .ui 0, .uI 0, .uq 0, .uQ 0, .uc 0].all (fun i => !i.wf) = true
      := by decide

theorem test_pack_token_of_count_zero_is_ill_formed :
    [Instr.pf 0, .pd 0, .pb 0, .pB 0, .ph 0, .pH 0, .pi 0, .pI 0, .pq 0, .pQ 0, .pc 0].all (fun i => !i.wf) = true
      := by decide

theorem test_frame_of_wrong_length_is_ill_formed :
    Instr.wf (.frameV1 { frameA with len := 0x0A }) = false ∧ Instr.wf (.frameV2 { frameS with len := 0x02 }) =
      false := by
  decide

theorem test_signed_bit_without_block_is_ill_formed :
    Instr.wf (.frameV2 { frameS with sig := none }) = false := by decide

theorem test_block_without_signed_bit_is_ill_formed :
    Instr.wf (.frameV2 { frameS with incompat := 0xFE }) = false := by decide

/-! ## Decode: words written out from the tables of spec/30_encoding.md -/

theorem test_decode_commands :
    decode (.cmd ⟨0x01, {}⟩) = .ok .reset ∧
    decode (.cmd ⟨0x02, { k := 0 }⟩) = .ok (.rdcnt .trash) ∧
    decode (.cmd ⟨0x02, { k := 1 }⟩) = .ok (.rdcnt .crcerr) ∧
    decode (.cmd ⟨0x02, { k := 2 }⟩) = .ok (.rdcnt .unkmsg) ∧
    decode (.cmd ⟨0x02, { k := 3 }⟩) = .ok (.rdcnt .parseerr) ∧
    decode (.cmd ⟨0x02, { k := 4 }⟩) = .ok (.rdcnt .pkts) ∧
    decode (.cmd ⟨0x10, {}⟩) = .ok .crcInit ∧
    decode (.cmd ⟨0x11, { d := 0x09 }⟩) = .ok (.crcStep 0x09) ∧
    decode (.cmd ⟨0x12, { s := 0x32 }⟩) = .ok (.crcSeed 0x32) ∧
    decode (.cmd ⟨0x13, { B := [0x31] }⟩) = .ok (.crcBuf [0x31]) ∧
    decode (.cmd ⟨0x14, {}⟩) = .ok .crcRd ∧
    decode (.cmd ⟨0x15, { B := [0x31], s := 0x32 }⟩) = .ok (.crcFrame [0x31] 0x32) ∧
    decode (.cmd ⟨0x20, { fmt := [0x49] }⟩) = .ok (.fmtTok [0x49]) ∧
    decode (.cmd ⟨0x21, { buf := [1], fmt := [0x42], names := [[0x61]] }⟩) = .ok (.unpack [1] [0x42] [[0x61]]) ∧
    decode (.cmd ⟨0x22, { map := [], fmt := [0x42], names := [[0x61]], buf := [1], off := 2 }⟩) =
      .ok (.pack [] [0x42] [[0x61]] [1] 2) ∧
    decode (.cmd ⟨0x30, { chunk := bytesA }⟩) = .ok (.parse bytesA) ∧
    decode (.cmd ⟨0x31, { req := ⟨true, 1, 2, 3, 4, 5, 6, [], none⟩ }⟩) =
      .ok (.encode ⟨true, 1, 2, 3, 4, 5, 6, [], none⟩) ∧
    decode (.cmd ⟨0x32, { id := 0x012345 }⟩) = .ok (.buildDefault 0x012345) := by
  repeat' constructor

theorem test_decode_rejects_commands :
    decode (.cmd ⟨0x00, {}⟩) = .error (.command (.badCode 0x00)) ∧
    decode (.cmd ⟨0x33, {}⟩) = .error (.command (.badCode 0x33)) ∧
    decode (.cmd ⟨0x02, { k := 5 }⟩) = .error (.command (.badSelector 5)) := by
  repeat' constructor

theorem test_decode_unpack_tokens :
    decode (.tok .unpack [0x66]) = .ok (.uf 1) ∧
    decode (.tok .unpack [0x31, 0x64]) = .ok (.ud 1) ∧
    decode (.tok .unpack [0x32, 0x62]) = .ok (.ub 2) ∧
    decode (.tok .unpack [0x31, 0x32, 0x42]) = .ok (.uB 12) ∧
    decode (.tok .unpack [0x68]) = .ok (.uh 1) ∧
    decode (.tok .unpack [0x33, 0x48]) = .ok (.uH 3) ∧
    decode (.tok .unpack [0x69]) = .ok (.ui 1) ∧
    decode (.tok .unpack [0x31, 0x30, 0x49]) = .ok (.uI 10) ∧
    decode (.tok .unpack [0x30, 0x30, 0x37, 0x71]) = .ok (.uq 7) ∧
    decode (.tok .unpack [0x51]) = .ok (.uQ 1) ∧
    decode (.tok .unpack [0x33, 0x30, 0x30, 0x63]) = .ok (.uc 300) := by
  repeat' constructor

theorem test_decode_pack_tokens :
    decode (.tok .pack [0x66]) = .ok (.pf 1) ∧
    decode (.tok .pack [0x31, 0x64]) = .ok (.pd 1) ∧
    decode (.tok .pack [0x32, 0x62]) = .ok (.pb 2) ∧
    decode (.tok .pack [0x31, 0x32, 0x42]) = .ok (.pB 12) ∧
    decode (.tok .pack [0x68]) = .ok (.ph 1) ∧
    decode (.tok .pack [0x33, 0x48]) = .ok (.pH 3) ∧
    decode (.tok .pack [0x69]) = .ok (.pi 1) ∧
    decode (.tok .pack [0x31, 0x30, 0x49]) = .ok (.pI 10) ∧
    decode (.tok .pack [0x30, 0x30, 0x37, 0x71]) = .ok (.pq 7) ∧
    decode (.tok .pack [0x51]) = .ok (.pQ 1) ∧
    decode (.tok .pack [0x33, 0x30, 0x30, 0x63]) = .ok (.pc 300) := by
  repeat' constructor

theorem test_decode_rejects_tokens :
    decode (.tok .unpack [0x78]) = .error (.format (.unrecognized 0x78)) ∧
    decode (.tok .unpack [0x30, 0x42]) = .error (.format .zeroCount) ∧
    decode (.tok .pack [0x31, 0x36]) = .error (.format .dangling) ∧
    decode (.tok .pack []) = .error .noToken := by
  repeat' constructor

theorem test_decode_frame_v1 : decode (.frame bytesA) = .ok (.frameV1 frameA) := by rfl

theorem test_decode_frame_v2_signed :
    decode (.frame [0xFD, 0x03, 0x01, 0x00, 0x07, 0x01, 0x02, 0x01, 0x00, 0x00, 0x34, 0x12, 0x56, 0xAF, 0x5B, 0x03,
      0x12, 0x34, 0x56, 0x78, 0x9A, 0xBC, 0xA1, 0xA2, 0xA3, 0xA4, 0xA5, 0xA6]) =
      .ok (.frameV2 frameS) := by rfl

theorem test_decode_frame_v2_unsigned :
    decode (.frame [0xFD, 0x00, 0x00, 0x00, 0x05, 0x01, 0x01, 0x02, 0x00, 0x00, 0x3D, 0x5A]) = .ok (.frameV2
      frameE) := by rfl

theorem test_decode_rejects_frames :
    decode (.frame [0x55]) = .error (.frame .notMarker) ∧
    decode (.frame [0xFD, 0x09, 0x00]) = .error (.frame .headerWait) ∧
    decode (.frame (bytesA.take 16)) = .error (.frame .frameWait) := by
  repeat' constructor

/-! ## One step of each instruction -/

theorem test_reset_leaves_the_fault : answer .reset faulted = some .done := by decide

theorem test_rdcnt_of_a_selector : answer (.rdcnt .unkmsg) { st with unkmsg := 7, pkts := 1 } = some (.nat 7) := by
    decide

theorem test_rdcnt_is_refused_while_faulted : answer (.rdcnt .trash) faulted = some (.error .eFaulted) := by decide

/-- The corner cases and the example of R174, and the example of R175. -/
theorem test_mix :
    mix 0xFFFF 0x00 = 0x0F87 ∧ mix 0xFFFF 0xFF = 0x00FF ∧ mix 0x0000 0x01 = 0x1189 ∧ mix 0x0000 0x80 = 0x8408 ∧
      mix 0xFFFF 0x09 = 0x9246 ∧ mix 0x1838 50 = 0xAF42 := by decide

/-- The example of R176. -/
theorem test_crc_of_digits : mixAll 0xFFFF [0x31, 0x32, 0x33, 0x34, 0x35, 0x36, 0x37, 0x38, 0x39] = 0x6F91 := by
    decide

/-- The example of R178. -/
theorem test_crc_frame :
    answer (.crcFrame [0x09, 0x80, 0x7B, 0xD4, 0x00, 0x04, 0x00, 0x00, 0x00, 0x01, 0x02, 0x03, 0x05, 0x01] 50) { st
      with crc := 0 } =
      some (.word 0xAF42) := by
  decide

theorem test_crc_rd : answer .crcRd { st with crc := 0xAF42 } = some (.word 0xAF42) := by decide

theorem test_fmt_tok :
    answer (.fmtTok [0x34, 0x63, 0x33, 0x48, 0x66, 0x64]) st = some (.tokens [⟨4, .c⟩, ⟨3, .H⟩, ⟨1, .f⟩, ⟨1, .d⟩])
      := by decide

theorem test_fmt_tok_leading_zero : answer (.fmtTok [0x30, 0x31, 0x32, 0x42]) st = some (.tokens [⟨12, .B⟩]) := by
    decide

/-- Vector UV2. -/
theorem test_unpack :
    answer (.unpack [0x41, 0x42, 0x00, 0x43, 0x34, 0x12, 0xFF, 0xFF, 0x00, 0x80, 0x00, 0x00, 0x80, 0x3F, 0x00,
      0x00, 0x00, 0x00, 0x00, 0x00, 0xF0, 0x3F]
        [0x34, 0x63, 0x33, 0x48, 0x66, 0x64] [[1], [2], [3], [4]]) st =
      some (.mapping [([1], .str [0x41, 0x42]), ([2], .arr [.int 4660, .int 65535, .int 32768]),
        ([3], .scalar (.f32 0x3F800000)), ([4], .scalar (.f64 0x3FF0000000000000))]) := by decide

theorem test_unpack_short_buffer :
    answer (.unpack [0x01, 0x02, 0x03, 0x04, 0x05] [0x49, 0x32, 0x48] [[1], [2]]) st = some (.error .eDecode) := by
      decide

/-- Vector P3. -/
theorem test_pack_at_an_offset :
    answer (.pack [([0x76], .scalar (.int 4660)), ([0x6B], .scalar (.int 86))] [0x48, 0x42] [[0x76], [0x6B]]
        [0xEE, 0xEE, 0x00, 0x00, 0x00, 0xEE] 2) st = some (.packed [0xEE, 0xEE, 0x34, 0x12, 0x56, 0xEE] 5) := by
          decide

theorem test_pack_value_before_later_bound :
    answer (.pack [([1], .scalar (.int 999)), ([2], .scalar (.int 1))] [0x42, 0x49] [[1], [2]] (zeros 2) 0) st =
      some (.error .eValue) := by decide

/-- Vector 5.A. -/
theorem test_parse_frame_a :
    parsed bytesA st = some (some (.messages [⟨⟨false, 9, none, none, 128, 123, 212, 0⟩,
      [([1], .scalar (.int 4)), ([2], .scalar (.int 1)), ([3], .scalar (.int 2)), ([4], .scalar (.int 3)),
        ([5], .scalar (.int 5)), ([6], .scalar (.int 1))], none⟩]), [0, 0, 0, 0, 1], []) := by decide

/-- The example of R213. -/
theorem test_parse_false_marker :
    parsed [0xFE, 0x02, 0xFE, 0x09, 0x80, 0x7B, 0xD4, 0x00, 0x04, 0x00, 0x00, 0x00, 0x01, 0x02, 0x03, 0x05, 0x01,
      0x42, 0xAF] st =
      some (some (.messages []), [9, 0, 1, 0, 0], []) := by decide

/-- Vector E1. -/
theorem test_encode_v1 :
    answer (.encode ⟨false, 128, 123, 212, 0, 0, 0, [([1], .scalar (.int 4)), ([2], .scalar (.int 1)),
      ([3], .scalar (.int 2)), ([4], .scalar (.int 3)), ([5], .scalar (.int 5)), ([6], .scalar (.int 1))], none⟩) st =
      some (.frame bytesA) := by decide

/-- Vector E4: the whole payload is zero, one byte is kept. -/
theorem test_encode_keeps_one_byte :
    answer (.encode ⟨true, 0, 0, 0, 0, 0, 0, [], none⟩) st =
      some (.frame [0xFD, 0x01, 0x00, 0x00, 0x00, 0x00, 0x00, 0x00, 0x00, 0x00, 0x00, 0x2B, 0xB7]) := by decide

/-- The example of R253. -/
theorem test_build_default :
    answer (.buildDefault 0) st = some (.skeleton 0 [([1], .scalar (.int 0)), ([2], .scalar (.int 0)),
      ([3], .scalar (.int 0)), ([4], .scalar (.int 0)), ([5], .scalar (.int 0)), ([6], .scalar (.int 0))]) := by
        decide

/-! An element of every unpack rule's corner cases or example (R138 to R148). -/

theorem test_uf :
    readBy (.uf 1) (unpacking ⟨1, .f⟩ [0x01, 0x00, 0xC0, 0x7F]) =
      some ([([0x61], .scalar (.f32 0x7FC00001))], 4, 1) := by decide

theorem test_ud :
    readBy (.ud 1) (unpacking ⟨1, .d⟩ [0x00, 0x00, 0x00, 0x00, 0x00, 0x00, 0xF0, 0x3F]) =
      some ([([0x61], .scalar (.f64 0x3FF0000000000000))], 8, 1) := by decide

theorem test_ub :
    readBy (.ub 3) (unpacking ⟨3, .b⟩ [0x80, 0xFF, 0x7F]) =
      some ([([0x61], .arr [.int (-128), .int (-1), .int 127])], 3, 1) := by decide

theorem test_uB :
    readBy (.uB 3) (unpacking ⟨3, .B⟩ [0x01, 0x00, 0x02]) =
      some ([([0x61], .bytes [0x01, 0x00, 0x02])], 3, 1) := by decide

theorem test_uh :
    readBy (.uh 1) (unpacking ⟨1, .h⟩ [0xD4, 0xFE]) =
      some ([([0x61], .scalar (.int (-300)))], 2, 1) := by decide

theorem test_uH :
    readBy (.uH 3) (unpacking ⟨3, .H⟩ [0x34, 0x12, 0xFF, 0xFF, 0x00, 0x80]) =
      some ([([0x61], .arr [.int 4660, .int 65535, .int 32768])], 6, 1) := by decide

theorem test_ui :
    readBy (.ui 1) (unpacking ⟨1, .i⟩ [0x00, 0x00, 0x00, 0x80]) =
      some ([([0x61], .scalar (.int (-2147483648)))], 4, 1) := by decide

theorem test_uI :
    readBy (.uI 1) (unpacking ⟨1, .I⟩ [0xEF, 0xBE, 0xAD, 0xDE]) =
      some ([([0x61], .scalar (.int 3735928559))], 4, 1) := by decide

theorem test_uq :
    readBy (.uq 1) (unpacking ⟨1, .q⟩ [0xFE, 0xFF, 0xFF, 0xFF, 0xFF, 0xFF, 0xFF, 0xFF]) =
      some ([([0x61], .scalar (.int (-2)))], 8, 1) := by decide

theorem test_uQ :
    readBy (.uQ 1) (unpacking ⟨1, .Q⟩ [0x00, 0x00, 0x00, 0x00, 0x00, 0x00, 0x00, 0x80]) =
      some ([([0x61], .scalar (.int 9223372036854775808))], 8, 1) := by decide

theorem test_uc :
    readBy (.uc 4) (unpacking ⟨4, .c⟩ [0x41, 0x42, 0x00, 0x43]) =
      some ([([0x61], .str [0x41, 0x42])], 4, 1) := by decide

/-! Table words: the decoder reads the row's instruction, and the step runs it right after reset. -/

theorem test_table_words :
    [0x01, 0x02, 0x10, 0x14, 0x20, 0x22, 0x31, 0x66, 0x51, 0x63, 0xFE, 0xFD].map (decodeTableWord 8) =
      [some .reset, some (.rdcnt .trash), some .crcInit, some .crcRd, some (.fmtTok []), some (.pack [] [] [] [] 0),
        some (.encode ⟨false, 0, 0, 0, 0, 0, 0, [], none⟩), some (.uf 1), some (.uQ 1), some (.uc 1),
        some (.frameV1 ⟨0, 0, 0, 0, 0, [], 0⟩), some (.frameV2 ⟨0, 0, 0, 0, 0, 0, 0, [], 0, none⟩)] := by decide

theorem test_step_runs_the_table_word :
    step (State.reset.withFetchWord 8 0x10) = .next (State.reset.respond .done) := by rfl


/-! The examples of the pack rules (R157 to R167), and an integer each refuses. -/

theorem test_pf :
    writtenBy (.pf 1) (packing ⟨1, .f⟩ (.scalar (.f32 0x3F800000)) [0x00, 0x00, 0x00, 0x00]) =
      some ([0x00, 0x00, 0x80, 0x3F], 4, 1) := by decide

theorem test_pd :
    writtenBy (.pd 1) (packing ⟨1, .d⟩ (.scalar (.f64 0x3FF0000000000000)) [0x00, 0x00, 0x00, 0x00, 0x00, 0x00,
      0x00, 0x00]) =
      some ([0x00, 0x00, 0x00, 0x00, 0x00, 0x00, 0xF0, 0x3F], 8, 1) := by decide

theorem test_pb :
    writtenBy (.pb 3) (packing ⟨3, .b⟩ (.arr [.int (-128), .int (-1), .int 127]) [0x00, 0x00, 0x00]) =
      some ([0x80, 0xFF, 0x7F], 3, 1) := by decide

theorem test_pB :
    writtenBy (.pB 3) (packing ⟨3, .B⟩ (.bytes [0x01]) [0xAA, 0xBB, 0xCC]) =
      some ([0x01, 0xBB, 0xCC], 3, 1) := by decide

theorem test_ph :
    writtenBy (.ph 1) (packing ⟨1, .h⟩ (.scalar (.int (-300))) [0x00, 0x00]) =
      some ([0xD4, 0xFE], 2, 1) := by decide

theorem test_pH :
    writtenBy (.pH 3) (packing ⟨3, .H⟩ (.arr [.int 1, .int 2]) [0xAA, 0xAA, 0xAA, 0xAA, 0xAA, 0xAA]) =
      some ([0x01, 0x00, 0x02, 0x00, 0xAA, 0xAA], 6, 1) := by decide

theorem test_pi :
    writtenBy (.pi 1) (packing ⟨1, .i⟩ (.scalar (.int (-2147483648))) [0x00, 0x00, 0x00, 0x00]) =
      some ([0x00, 0x00, 0x00, 0x80], 4, 1) := by decide

theorem test_pI :
    writtenBy (.pI 1) (packing ⟨1, .I⟩ (.scalar (.int 3735928559)) [0x00, 0x00, 0x00, 0x00]) =
      some ([0xEF, 0xBE, 0xAD, 0xDE], 4, 1) := by decide

theorem test_pq :
    writtenBy (.pq 1) (packing ⟨1, .q⟩ (.scalar (.int (-2))) [0x00, 0x00, 0x00, 0x00, 0x00, 0x00, 0x00, 0x00]) =
      some ([0xFE, 0xFF, 0xFF, 0xFF, 0xFF, 0xFF, 0xFF, 0xFF], 8, 1) := by decide

theorem test_pQ :
    writtenBy (.pQ 1) (packing ⟨1, .Q⟩ (.scalar (.int 9223372036854775808)) [0x00, 0x00, 0x00, 0x00, 0x00, 0x00,
      0x00, 0x00]) =
      some ([0x00, 0x00, 0x00, 0x00, 0x00, 0x00, 0x00, 0x80], 8, 1) := by decide

theorem test_pc :
    writtenBy (.pc 4) (packing ⟨4, .c⟩ (.str [0x61, 0x62]) [0x00, 0x00, 0x00, 0x00]) =
      some ([0x61, 0x62, 0x00, 0x00], 4, 1) := by decide

theorem test_pack_tokens_refuse_out_of_range :
    [answer (.pb 1) (packing ⟨1, .b⟩ (.scalar (.int 128)) [0]), answer (.pB 1) (packing ⟨1, .B⟩ (.scalar (.int
      256)) [0]),
      answer (.ph 1) (packing ⟨1, .h⟩ (.scalar (.int 32768)) (zeros 2)),
      answer (.pH 1) (packing ⟨1, .H⟩ (.scalar (.int (-1))) (zeros 2)),
      answer (.pi 1) (packing ⟨1, .i⟩ (.scalar (.int 2147483648)) (zeros 4)),
      answer (.pI 1) (packing ⟨1, .I⟩ (.scalar (.int 4294967296)) (zeros 4)),
      answer (.pq 1) (packing ⟨1, .q⟩ (.scalar (.int 9223372036854775808)) (zeros 8)),
      answer (.pQ 1) (packing ⟨1, .Q⟩ (.scalar (.int 18446744073709551616)) (zeros 8)),
      answer (.pf 1) (packing ⟨1, .f⟩ (.scalar (.int 1)) (zeros 4)), answer (.pd 1) (packing ⟨1, .d⟩ (.scalar (.f32
        0)) (zeros 8)),
      answer (.pc 4) (packing ⟨4, .c⟩ (.str [1, 2, 3, 4, 5]) (zeros 4))] =
    List.replicate 11 (some (.error .eValue)) := by decide

/-! ## Witnesses: for each statement with hypotheses, data that meet all of them, each clause at a boundary of its range -/

theorem soundRegistry : registrySound sound.registry := by
  intro d hd
  rcases List.mem_cons.mp hd with rfl | hd
  · exact ⟨_, rfl⟩
  · rcases List.mem_cons.mp hd with rfl | hd
    · exact ⟨_, rfl⟩
    · cases hd

/-- The frame of vector 5 for the defective descriptor (R228). -/
def frameBad : FrameV1 := ⟨0x02, 0x00, 0x01, 0x01, 0x03, [0x01, 0x02], 0x25A4⟩

/-- A frame for the descriptor that does not tokenize. -/
def frameUnreadable : FrameV1 := ⟨0x01, 0x00, 0x01, 0x01, 0x06, [0x00], 0x2D7C⟩

/-- The frame of R224. -/
def frameShort : FrameV1 := ⟨0x03, 0x00, 0x01, 0x01, 0x04, [0x01, 0x02, 0x03], 0x305B⟩

/-- The names of T_PAIR. -/
abbrev vk : List FieldName := [[0x76], [0x6B]]

/-- `"HB"`. -/
abbrev hb : Bytes := [0x48, 0x42]

/-- The tokens of `"HB"`. -/
abbrev hbToks : List Token := [⟨1, .H⟩, ⟨1, .B⟩]

/-- The tokens of HEARTBEAT. -/
abbrev heartbeatToks : List Token := [⟨1, .I⟩, ⟨1, .B⟩, ⟨1, .B⟩, ⟨1, .B⟩, ⟨1, .B⟩, ⟨1, .B⟩]

/-- The mapping of vector P1. -/
abbrev vkMap : Mapping := [([0x76], .scalar (.int 4660)), ([0x6B], .scalar (.int 86))]

/-- The request of vector E14. -/
def reqS : EncodeRequest := ⟨true, 7, 1, 2, 0, 0, 1, vkMap, some ⟨[1], 3, 0xBC9A78563412⟩⟩

/-- The request of vector E9. -/
def reqV1 : EncodeRequest := ⟨false, 7, 1, 2, 0, 0, 1, vkMap, none⟩

theorem witness_ResetRestoresEveryRegister :
    faulted.run = .idle := rfl

theorem witness_RdcntReadsOneCounter :
    st.run = .idle ∧
    st.fault = none ∧
    faulted.run = .idle ∧
    faulted.fault ≠ none := by
  and_intros <;> first | rfl | decide

theorem witness_BuildDefaultIsTheMappingOfZeros :
    st.run = .idle ∧
    lookupIn st.registry 9 = none ∧
    lookupIn st.registry 6 = some unreadable ∧
    tokenize unreadable.wireFormat = .error (.unrecognized 0x78) ∧
    lookupIn st.registry 3 = some bad ∧
    tokenize bad.wireFormat = .ok [⟨2, .B⟩] ∧
    [(⟨2, .B⟩ : Token)].length ≠ bad.fields.length ∧
    lookupIn st.registry 0 = some heartbeat ∧
    tokenize heartbeat.wireFormat = .ok heartbeatToks ∧
    heartbeatToks.length = heartbeat.fields.length ∧
    heartbeat.fields.Nodup ∧
    programSize heartbeatToks ≤ 9 := by
  and_intros <;> first | rfl | decide

theorem witness_CrcInitLoadsFFFF :
    { st with crc := 0 }.run = .idle := rfl

theorem witness_CrcRdReadsCrc :
    st.run = .idle := rfl

theorem witness_CrcCommandsMixIntoCrc :
    st.run = .idle := rfl

theorem witness_ChecksumDetectsOneByteAndTheSeed :
    st.run = .idle ∧
    (0x00 : Byte) ≠ 0xFF := by
  and_intros <;> first | rfl | decide

theorem witness_FmtTokReadsEveryProgram :
    st.run = .idle ∧
    (∀ p ∈ [([], TypeCode.I), ([0, 1, 2], .B), ([9], .c), ([1], .q)], (∀ d ∈ p.1, d ≤ 9) ∧ 1 ≤ countOf p.1) := by
  and_intros <;> first | rfl | decide

theorem witness_UnrecognizedCharacterIsFormatError :
    st.run = .idle ∧
    ¬ isDigit 0x2F ∧ 0x2F#8 ∉ codeChars ∧
    ¬ isDigit 0x3A ∧ 0x3A#8 ∉ codeChars ∧
    tokenize [0x42, 0x34] = .error .dangling ∧
    tokenize [0x42] = .ok [⟨1, .B⟩] := by
  and_intros <;> first | rfl | decide

theorem witness_DanglingDigitsAreFormatError :
    st.run = .idle ∧
    isDigit 0x30 ∧ isDigit 0x39 ∧
    tokenize [0x42, 0x34] = .error .dangling ∧
    tokenize [] = .ok [] := by
  and_intros <;> first | rfl | decide

theorem witness_ZeroCountIsFormatError :
    st.run = .idle ∧
    tokenize [0x49] = .ok [⟨1, .I⟩] := by
  and_intros <;> rfl

theorem witness_UnpackReadsEveryFieldAtItsOffset :
    st.run = .idle ∧
    tokenize hb = .ok hbToks ∧
    hbToks.length = vk.length ∧
    vk.Nodup ∧
    programSize hbToks ≤ (zeros 3).length := by
  and_intros <;> first | rfl | decide

theorem witness_UnpackErrorsInOrder :
    st.run = .idle ∧
    tokenize [0x42, 0x78] = .error (.unrecognized 0x78) ∧
    tokenize hb = .ok hbToks ∧
    hbToks.length ≠ [([0x76] : FieldName)].length ∧
    ¬ [([0x76] : FieldName), [0x76]].Nodup ∧
    hbToks.length = vk.length ∧
    vk.Nodup ∧
    (zeros 2).length < programSize hbToks := by
  and_intros <;> first | rfl | decide

theorem witness_UnsignedTokensReadTheirField :
    (unpacking ⟨1, .Q⟩ (zeros 8)).run = .unpack (startUnpack [⟨1, .Q⟩] (zeros 8) [[0x61]] .host) ∧
    0 + 1 ≤ (zeros 8).length ∧
    0 + 1 * 2 ≤ (zeros 8).length ∧
    0 + 1 * 4 ≤ (zeros 8).length ∧
    0 + 1 * 8 ≤ (zeros 8).length ∧
    (unpacking ⟨2, .Q⟩ (zeros 16)).run = .unpack (startUnpack [⟨2, .Q⟩] (zeros 16) [[0x61]] .host) ∧
    0 + 2 * 8 ≤ (zeros 16).length := by
  and_intros <;> first | rfl | decide

theorem witness_SignedFloatAndCharTokensReadTheirField :
    (unpacking ⟨1, .d⟩ (zeros 8)).run = .unpack (startUnpack [⟨1, .d⟩] (zeros 8) [[0x61]] .host) ∧
    0 + 1 ≤ (zeros 8).length ∧
    0 + 1 * 2 ≤ (zeros 8).length ∧
    0 + 1 * 4 ≤ (zeros 8).length ∧
    0 + 1 * 8 ≤ (zeros 8).length ∧
    (unpacking ⟨2, .q⟩ (zeros 16)).run = .unpack (startUnpack [⟨2, .q⟩] (zeros 16) [[0x61]] .host) ∧
    0 + 2 * 8 ≤ (zeros 16).length := by
  and_intros <;> first | rfl | decide

/-- A token program of a candidate frame, one byte too short for its token. -/
def unpackingFrame : State :=
  { st with run := .unpack (startUnpack [⟨1, .I⟩] (zeros 3) [[0x61]] (.frame ⟨[], 0, [], 0⟩ (headerV1 frameShort)
      none)) }

theorem witness_TokenPastTheEndIsAnError :
    (unpacking ⟨1, .I⟩ (zeros 3)).run = .unpack (startUnpack [⟨1, .I⟩] (zeros 3) [[0x61]] .host) ∧
    (zeros 3).length < 0 + 1 * TypeCode.width .I ∧
    unpackingFrame.run =
      .unpack (startUnpack [⟨1, .I⟩] (zeros 3) [[0x61]] (.frame ⟨[], 0, [], 0⟩ (headerV1 frameShort) none)) ∧
    (packing ⟨1, .I⟩ (.scalar (.int 0)) (zeros 3)).run =
      .pack (startPack [([0x61], .scalar (.int 0))] [⟨1, .I⟩] [[0x61]] (zeros 3) 0 .host) := by
  and_intros <;> first | rfl | decide

theorem witness_PackScalarTokensWriteTheirField :
    (packing ⟨1, .b⟩ (.scalar (.int (-128))) [0]).run =
      .pack (startPack [([0x61], .scalar (.int (-128)))] [⟨1, .b⟩] [[0x61]] [0] 0 .host) ∧
    0 + TypeCode.width .b ≤ [(0 : Byte)].length ∧
    fieldValue [([0x61], .scalar (.int (-128)))] [0x61] = some (.scalar (.int (-128))) ∧
    scalarAccepted .b (.int (-128)) ∧ scalarAccepted .b (.int 127) ∧
    ¬ valueAccepted ⟨1, .b⟩ (.scalar (.int 128)) ∧
    ¬ valueAccepted ⟨1, .b⟩ (.scalar (.int (-129))) ∧
    scalarAccepted .f (.f32 0) ∧ scalarAccepted .d (.f64 0) ∧ scalarAccepted .c (.char 0) ∧ scalarAccepted .Q (.int
      18446744073709551615) := by
  and_intros <;> first | rfl | decide

theorem witness_PackArrayTokensWriteTheirField :
    (packing ⟨2, .H⟩ (.arr [.int 1]) (zeros 4)).run =
      .pack (startPack [([0x61], .arr [.int 1])] [⟨2, .H⟩] [[0x61]] (zeros 4) 0 .host) ∧
    0 + 2 * TypeCode.width .H ≤ (zeros 4).length ∧
    fieldValue [([0x61], .arr [.int 1])] [0x61] = some (.arr [.int 1]) ∧
    valueAccepted ⟨2, .H⟩ (.arr [.int 1]) ∧
    valueAccepted ⟨2, .B⟩ (.bytes [1, 2]) ∧ valueAccepted ⟨2, .c⟩ (.str []) ∧
    ¬ valueAccepted ⟨2, .H⟩ (.arr [.int 1, .int 2, .int 3]) ∧
    ¬ valueAccepted ⟨2, .c⟩ (.bytes []) := by
  and_intros <;> first | rfl | decide | simp [scalarAccepted, intInRange]

/-- A pack program whose field has no value. -/
def packingNothing (n : Nat) : State := { st with run := .pack (startPack [] [⟨1, .I⟩] [[0x61]] (zeros n) 0 .host) }

theorem witness_AbsentValueAdvancesWithoutWriting :
    (packingNothing 4).run = .pack (startPack [] [⟨1, .I⟩] [[0x61]] (zeros 4) 0 .host) ∧
    fieldValue [] [0x61] = none ∧
    0 + 1 * TypeCode.width .I ≤ (zeros 4).length ∧
    (packingNothing 3).run = .pack (startPack [] [⟨1, .I⟩] [[0x61]] (zeros 3) 0 .host) ∧
    (zeros 3).length < 0 + 1 * TypeCode.width .I := by
  and_intros <;> first | rfl | decide

theorem witness_PackTokenWritesOnlyItsField :
    ∃ r t q, (packing ⟨2, .B⟩ (.bytes [7]) (zeros 3)).run = .pack r ∧
      exec (Token.instr .pack ⟨2, .B⟩) (packing ⟨2, .B⟩ (.bytes [7]) (zeros 3)) = .next t ∧ t.run = .pack q := ⟨_,
        _, _, rfl, rfl, rfl⟩

theorem vkAccepted : mappingAccepted vkMap hbToks vk := by simp [mappingAccepted, fieldValue, scalarAccepted,
    intInRange]

theorem witness_PackWritesEveryFieldAtItsOffset :
    st.run = .idle ∧
    tokenize hb = .ok hbToks ∧
    hbToks.length = vk.length ∧
    vk.Nodup ∧
    mappingAccepted vkMap hbToks vk ∧
    2 + programSize hbToks ≤ (zeros 5).length := by
  and_intros <;> first | rfl | decide | simp [mappingAccepted, fieldValue, scalarAccepted, intInRange]

theorem witness_PackErrorsInOrder :
    st.run = .idle ∧
    tokenize [0x42, 0x39] = .error .dangling ∧
    tokenize hb = .ok hbToks ∧
    hbToks.length ≠ [([0x76] : FieldName)].length ∧
    hbToks.length = vk.length ∧
    vk.Nodup ∧
    hbToks[1]? = some ⟨1, .B⟩ ∧ vk[1]? = some [0x6B] ∧
    mappingAccepted vkMap (hbToks.take 1) (vk.take 1) ∧
    0 + offsetOf hbToks 1 ≤ (zeros 2).length ∧
    (zeros 2).length < 0 + offsetOf hbToks (1 + 1) ∧
    hbToks[0]? = some ⟨1, .H⟩ ∧ vk[0]? = some [0x76] ∧
    mappingAccepted [([0x76], .scalar (.int 65536))] (hbToks.take 0) (vk.take 0) ∧
    0 + offsetOf hbToks (0 + 1) ≤ (zeros 2).length ∧
    fieldValue [([0x76], .scalar (.int 65536))] [0x76] = some (.scalar (.int 65536)) ∧
    ¬ valueAccepted ⟨1, .H⟩ (.scalar (.int 65536)) := by
  and_intros <;> first | rfl | decide | simp [mappingAccepted, fieldValue, scalarAccepted, intInRange]

theorem witness_PackUnpackRoundTrip :
    st.run = .idle ∧
    tokenize hb = .ok hbToks ∧
    hbToks.length = vk.length ∧
    vk.Nodup ∧
    mappingAccepted vkMap hbToks vk ∧
    programSize hbToks ≤ 3 := by
  and_intros <;> first | rfl | decide | simp [mappingAccepted, fieldValue, scalarAccepted, intInRange]

theorem witness_UnknownIdIsCountedAndDropped :
    (parsing st []).run = .parse ⟨[], 0, [], 0⟩ ∧
    lookupIn (parsing st []).registry (frameHeader (.v1 { frameA with msgid := 0x63 })).messageId = none := by
  and_intros <;> rfl

theorem witness_ChecksumMismatchIsCountedAndDropped :
    (parsing st []).run = .parse ⟨[], 0, [], 0⟩ ∧
    frameWf (.v1 { frameA with seq := 0x81 }) = true ∧
    lookupIn (parsing st []).registry (frameHeader (.v1 { frameA with seq := 0x81 })).messageId = some heartbeat ∧
    frameChecksum (.v1 { frameA with seq := 0x81 }) heartbeat.crcExtra ≠ frameTx (.v1 { frameA with seq := 0x81 }) ∧
    frameWf (.v2 frameS) = true := by
  and_intros <;> first | rfl | decide

theorem witness_ValidFrameIsEmitted :
    (parsing st []).run = .parse ⟨[], 0, [], 0⟩ ∧
    frameWf (.v1 frameA) = true ∧
    lookupIn (parsing st []).registry (frameHeader (.v1 frameA)).messageId = some heartbeat ∧
    frameChecksum (.v1 frameA) heartbeat.crcExtra = frameTx (.v1 frameA) ∧
    tokenize heartbeat.wireFormat = .ok heartbeatToks ∧
    heartbeatToks.length = heartbeat.fields.length ∧
    heartbeat.fields.Nodup ∧
    programSize heartbeatToks ≤ max (frameLen (.v1 frameA)) heartbeat.maxPayloadLen ∧
    frameWf (.v2 frameS) = true ∧
    lookupIn (parsing st []).registry (frameHeader (.v2 frameS)).messageId = some pair ∧
    frameChecksum (.v2 frameS) pair.crcExtra = frameTx (.v2 frameS) ∧
    tokenize pair.wireFormat = .ok hbToks ∧
    programSize hbToks ≤ max (frameLen (.v2 frameS)) pair.maxPayloadLen := by
  and_intros <;> first | rfl | decide

theorem witness_ShortPayloadIsCountedAndDropped :
    (parsing st []).run = .parse ⟨[], 0, [], 0⟩ ∧
    frameWf (.v1 frameShort) = true ∧
    lookupIn (parsing st []).registry (frameHeader (.v1 frameShort)).messageId = some short ∧
    frameChecksum (.v1 frameShort) short.crcExtra = frameTx (.v1 frameShort) ∧
    tokenize short.wireFormat = .ok [⟨1, .I⟩, ⟨1, .B⟩] ∧
    short.fields.length = 2 ∧ short.fields.Nodup ∧
    max (frameLen (.v1 frameShort)) short.maxPayloadLen < programSize [⟨1, .I⟩, ⟨1, .B⟩] := by
  and_intros <;> first | rfl | decide

theorem witness_DefectiveDescriptorTakesTheFault :
    (parsing st []).run = .parse ⟨[], 0, [], 0⟩ ∧
    frameWf (.v1 frameBad) = true ∧
    lookupIn (parsing st []).registry (frameHeader (.v1 frameBad)).messageId = some bad ∧
    frameChecksum (.v1 frameBad) bad.crcExtra = frameTx (.v1 frameBad) ∧
    tokenize bad.wireFormat = .ok [⟨2, .B⟩] ∧ [(⟨2, .B⟩ : Token)].length ≠ bad.fields.length ∧
    frameWf (.v1 frameUnreadable) = true ∧
    lookupIn (parsing st []).registry (frameHeader (.v1 frameUnreadable)).messageId = some unreadable ∧
    frameChecksum (.v1 frameUnreadable) unreadable.crcExtra = frameTx (.v1 frameUnreadable) ∧
    tokenize unreadable.wireFormat = .error (.unrecognized 0x78) := by
  and_intros <;> first | rfl | decide

theorem witness_EachFrameMovesOneCounter :
    (parsing sound []).run = .parse ⟨[], 0, [], 0⟩ ∧
    registrySound (parsing sound []).registry := ⟨rfl, soundRegistry⟩

theorem witness_SignatureIsNotVerified :
    (parsing st []).run = .parse ⟨[], 0, [], 0⟩ ∧
    FrameV2.wf { frameS with sig := some block } = true := by
  and_intros <;> rfl

theorem witness_ScanCountsTrash :
    (parsing st [0x55]).run = .parse ⟨[0x55], 0, [], 0⟩ ∧
    0 < [(0x55 : Byte)].length ∧
    byteAt [0x55] 0 ≠ 0xFE#8 ∧ byteAt [0x55] 0 ≠ 0xFD#8 ∧
    (parsing st []).run = .parse ⟨[], 0, [], 0⟩ ∧
    (0 : Nat) = ([] : Bytes).length ∧
    st.run = .idle ∧ st.fault = none ∧ st.resid = [] ∧
    (∀ b ∈ ([0x00, 0xFC, 0xFF] : Bytes), b ≠ 0xFE#8 ∧ b ≠ 0xFD#8) := by
  and_intros <;> first | rfl | decide

theorem witness_HeaderWaitKeepsTheTail :
    (parsing st (0xFE :: zeros 4)).run = .parse ⟨0xFE :: zeros 4, 0, [], 0⟩ ∧
    byteAt (0xFE :: zeros 4) 0 = 0xFE#8 ∧ (0xFE#8 :: zeros 4).length < 0 + 6 ∧
    (parsing st (0xFD :: zeros 8)).run = .parse ⟨0xFD :: zeros 8, 0, [], 0⟩ ∧
    byteAt (0xFD :: zeros 8) 0 = 0xFD#8 ∧ (0xFD#8 :: zeros 8).length < 0 + 10 ∧
    0 < (0xFE#8 :: zeros 4).length := by
  and_intros <;> first | rfl | decide

theorem witness_FrameWaitKeepsTheTail :
    (parsing st (0xFE :: zeros 5)).run = .parse ⟨0xFE :: zeros 5, 0, [], 0⟩ ∧
    byteAt (0xFE :: zeros 5) 0 = 0xFE#8 ∧ 0 + 6 ≤ (0xFE#8 :: zeros 5).length ∧
    (0xFE#8 :: zeros 5).length < 0 + (6 + (byteAt (0xFE :: zeros 5) (0 + 1)).toNat + 2) ∧
    (parsing st (bytesA.take 16)).run = .parse ⟨bytesA.take 16, 0, [], 0⟩ ∧
    (bytesA.take 16).length < 0 + (6 + (byteAt (bytesA.take 16) (0 + 1)).toNat + 2) ∧
    (parsing st ([0xFD, 0, 1] ++ zeros 21)).run = .parse ⟨[0xFD, 0, 1] ++ zeros 21, 0, [], 0⟩ ∧
    byteAt ([0xFD, 0, 1] ++ zeros 21) 0 = 0xFD#8 ∧ 0 + 10 ≤ ([0xFD, 0, 1] ++ zeros 21).length ∧
    ([0xFD, 0, 1] ++ zeros 21).length < 0 + (10 + (byteAt ([0xFD, 0, 1] ++ zeros 21) (0 + 1)).toNat + 2 +
      (if (byteAt ([0xFD, 0, 1] ++ zeros 21) (0 + 2)).getLsbD 0 then 13 else 0)) := by
  and_intros <;> first | rfl | decide

theorem witness_CompleteFrameIsSliced :
    (parsing st (0xFE :: zeros 7)).run = .parse ⟨0xFE :: zeros 7, 0, [], 0⟩ ∧
    byteAt (0xFE :: zeros 7) 0 = 0xFE#8 ∧ 8 = 6 + (byteAt (0xFE :: zeros 7) (0 + 1)).toNat + 2 ∧
    0 + 8 ≤ (0xFE#8 :: zeros 7).length ∧
    (parsing st ([0xFD, 0, 1] ++ zeros 22)).run = .parse ⟨[0xFD, 0, 1] ++ zeros 22, 0, [], 0⟩ ∧
    byteAt ([0xFD, 0, 1] ++ zeros 22) 0 = 0xFD#8 ∧ 25 = 10 + (byteAt ([0xFD, 0, 1] ++ zeros 22) (0 + 1)).toNat + 2 +
      (if (byteAt ([0xFD, 0, 1] ++ zeros 22) (0 + 2)).getLsbD 0 then 13 else 0) ∧
    0 + 25 ≤ ([0xFD, 0, 1] ++ zeros 22).length := by
  and_intros <;> rfl

theorem witness_ParseIsTheRunOfItsMicroSteps :
    st.run = .idle ∧
    st.fault = none := by
  and_intros <;> rfl

theorem witness_ParseReturnsWhatItEmits :
    sound.run = .idle ∧
    sound.fault = none ∧
    registrySound sound.registry := ⟨rfl, rfl, soundRegistry⟩

theorem witness_ParseIsChunkInvariant :
    st.run = .idle ∧
    st.fault = none ∧
    (∃ t u, exec (.parse (bytesA.take 9)) st = .next t ∧ t.fault = none ∧ exec (.parse (bytesA.drop 9)) t = .next u ∧
      u.fault = none) := by
  refine ⟨rfl, rfl, _, _, rfl, rfl, rfl, ?_⟩
  decide

theorem witness_EmptyChunkChangesNothing :
    { st with resid := bytesA.take 16 }.run = .idle ∧
    { st with resid := bytesA.take 16 }.fault = none ∧
    residOk { st with resid := bytesA.take 16 }.resid := by
  and_intros <;> first | rfl | decide

theorem witness_ChangedByteIsACrcError :
    st.run = .idle ∧
    st.fault = none ∧
    st.resid = [] ∧
    frameWf (.v1 frameA) = true ∧
    lookupIn st.registry (frameHeader (.v1 frameA)).messageId = some heartbeat ∧
    frameChecksum (.v1 frameA) heartbeat.crcExtra = frameTx (.v1 frameA) ∧
    [2, 4, 6, 16].all (fun pos => 0x00#8 ≠ byteAt (frameBytes (.v1 frameA)) pos || pos == 6) = true ∧
    0x05#8 ≠ byteAt (frameBytes (.v1 frameA)) 6 ∧
    (frameHeader (.v1 frameA)).isV2 = false ∧ 16 < 8 + frameLen (.v1 frameA) ∧
    frameWf (.v2 frameS) = true ∧
    lookupIn st.registry (frameHeader (.v2 frameS)).messageId = some pair ∧
    frameChecksum (.v2 frameS) pair.crcExtra = frameTx (.v2 frameS) ∧
    (frameHeader (.v2 frameS)).isV2 = true ∧
    0x03#8 ≠ byteAt (frameBytes (.v2 frameS)) 2 ∧ BitVec.getLsbD 0x03#8 0 = (byteAt (frameBytes (.v2 frameS))
      2).getLsbD 0 ∧
    [3, 6, 10, 14].all (fun pos => 0x77#8 ≠ byteAt (frameBytes (.v2 frameS)) pos) = true ∧
    14 < 12 + frameLen (.v2 frameS) ∧
    tokenize pair.wireFormat = .ok hbToks ∧
    programSize hbToks ≤ max (frameLen (.v2 frameS)) pair.maxPayloadLen ∧
    12 + frameLen (.v2 frameS) ≤ 15 ∧ 27 < (frameBytes (.v2 frameS)).length ∧
    [15, 27].all (fun pos => 0x77#8 ≠ byteAt (frameBytes (.v2 frameS)) pos) = true := by
  and_intros <;> first | rfl | decide

theorem witness_EncodeLaysOutTheFrame :
    faulted.run = .idle ∧
    lookupIn faulted.registry reqS.messageId = some pair ∧
    pair.maxPayloadLen ≤ 255 ∧
    reqS.isV2 = true ∧
    reqV1.isV2 = false ∧ reqV1.messageId.toNat ≤ 255 ∧
    tokenize pair.wireFormat = .ok hbToks ∧
    hbToks.length = pair.fields.length ∧
    pair.fields.Nodup ∧
    mappingAccepted reqS.payload hbToks pair.fields ∧
    programSize hbToks ≤ pair.maxPayloadLen := by
  and_intros <;> first | rfl | decide | simp [reqS, pair, mappingAccepted, fieldValue, scalarAccepted, intInRange]

theorem witness_EncodeRefusals :
    st.run = .idle ∧
    lookupIn st.registry 99 = none ∧
    lookupIn st.registry 5 = some tooLong ∧ 255 < tooLong.maxPayloadLen ∧
    lookupIn st.registry 74565 = some mixed ∧ 255 < (74565 : MsgId).toNat ∧
    lookupIn st.registry 3 = some bad ∧ bad.maxPayloadLen ≤ 255 ∧
    exec (.pack [] bad.wireFormat bad.fields (zeros bad.maxPayloadLen) 0) st =
      .next { st with rsp := st.rsp ++ [.error .eMismatch] } := by
  and_intros <;> first | rfl | decide

theorem witness_EncodeParseRoundTrip :
    (∃ G, exec (.encode reqS) st = .next { st with rsp := st.rsp ++ [.frame G] }) ∧
    (∃ G, exec (.encode reqV1) st = .next { st with rsp := st.rsp ++ [.frame G] }) ∧
    lookupIn st.registry reqS.messageId = some pair ∧
    tokenize pair.wireFormat = .ok hbToks ∧
    st.run = .idle ∧
    st.fault = none ∧
    st.resid = [] := ⟨⟨_, rfl⟩, ⟨_, rfl⟩, rfl, rfl, rfl, rfl, rfl⟩

theorem witness_DecodeEncode :
    [Instr.uf 1, .pc 12, .frameV1 frameA, .frameV2 frameS, .frameV2 frameE, .pack vkMap hb vk [] 0, .encode
      reqS].all Instr.wf = true := by decide

theorem witness_FrameDecoderTakesExactlyTheFrame :
    decodeFrame (bytesA ++ [0x55]) = .ok (.v1 frameA, 17) ∧
    frameWf (.v1 frameA) = true ∧
    frameWf (.v2 frameS) = true := by
  and_intros <;> rfl

theorem witness_IllegalCommandGetsBadCmd :
    (∃ s : State, s.run = .idle ∧ s.cmd = [⟨0x33, {}⟩] ∧ (0x33#8).toNat ∉ [0x01, 0x02, 0x10, 0x11, 0x12, 0x13,
      0x14, 0x15, 0x20, 0x21,
      0x22, 0x30, 0x31, 0x32]) ∧
    (∃ s : State, s.run = .idle ∧ s.cmd = [⟨0x02, { k := 5 }⟩] ∧ 4 < 5) := by
  exact ⟨⟨{ st with cmd := [⟨0x33, {}⟩] }, rfl, rfl, by decide⟩, ⟨{ st with cmd := [⟨0x02, { k := 5 }⟩] }, rfl,
      rfl, by decide⟩⟩

theorem witness_StepRunsTheDecodedInstruction :
    { st with cmd := [⟨0x10, {}⟩] }.run = .idle ∧
    { st with cmd := [⟨0x10, {}⟩] }.cmd = [⟨0x10, {}⟩] ∧
    decode (.cmd ⟨0x10, {}⟩) = .ok .crcInit ∧
    st.cmd = [] ∧
    (unpacking ⟨1, .I⟩ (zeros 4)).run = .unpack (startUnpack [⟨1, .I⟩] (zeros 4) [[0x61]] .host) ∧
    [(⟨1, .I⟩ : Token)][0]? = some ⟨1, .I⟩ ∧
    (packingNothing 4).run = .pack (startPack [] [⟨1, .I⟩] [[0x61]] (zeros 4) 0 .host) ∧
    (parsing st bytesA).run = .parse ⟨bytesA, 0, [], 0⟩ ∧
    decodeFrame (bytesA.drop 0) = .ok (.v1 frameA, 17) := by
  and_intros <;> rfl

/-- The end of the token program of an ENCODE, its two fields packed. -/
def encoded (req : EncodeRequest) : State :=
  { st with run := .pack { startEncode req pair hbToks with out := [0x34, 0x12, 0x56], cur := 3, ti := 2 } }

theorem witness_TokenProgramsEnd :
    (∃ r, { st with run := .unpack (startUnpack [] [] [] .host) }.run = .unpack r ∧ r.toks[r.ti]? = none ∧ r.caller
      = .host) ∧
    (∃ r, { st with run := .unpack (startUnpack [] [] [] (.frame ⟨[], 0, [], 0⟩ (headerV1 frameA) none)) }.run =
      .unpack r ∧
      r.toks[r.ti]? = none ∧ r.caller = .frame ⟨[], 0, [], 0⟩ (headerV1 frameA) none) ∧
    (∃ r, { st with run := .pack (startPack [] [] [] [] 0 .host) }.run = .pack r ∧ r.toks[r.ti]? = none ∧ r.caller
      = .host) ∧
    (∃ r, (encoded reqS).run = .pack r ∧ r.toks[r.ti]? = none ∧ r.caller = .encode reqS pair) ∧
    (∃ r, (encoded reqV1).run = .pack r ∧ r.toks[r.ti]? = none ∧ r.caller = .encode reqV1 pair) ∧
    (∃ sg, reqS.isV2 = true ∧ reqS.sign = some sg) ∧
    (reqV1.isV2 = false ∨ reqV1.sign = none) :=
  ⟨⟨_, rfl, rfl, rfl⟩, ⟨_, rfl, rfl, rfl⟩, ⟨_, rfl, rfl, rfl⟩, ⟨_, rfl, rfl, rfl⟩, ⟨_, rfl, rfl, rfl⟩, ⟨_, rfl, rfl⟩,
    .inl rfl⟩

/-- Vector E9 of spec/95_test_vectors.md, from the end of its token program. -/
theorem test_step_ends_encode : step (encoded reqV1) =
    .next { st with rsp := st.rsp ++ [.frame [0xFE, 0x03, 0x07, 0x01, 0x02, 0x01, 0x34, 0x12, 0x56, 0x7D, 0x65]] } := rfl

theorem witness_TokenProgramsAreTheirTokens :
    st.run = .idle ∧
    program hb vk = .ok hbToks ∧
    encodable st.registry reqS = .ok pair ∧
    program pair.wireFormat pair.fields = .ok hbToks ∧
    (parsing st []).run = .parse ⟨[], 0, [], 0⟩ ∧
    lookupIn (parsing st []).registry (frameHeader (.v2 frameS)).messageId = some pair ∧
    (candidateOf (.v2 frameS)).acc pair = frameTx (.v2 frameS) := by
  and_intros <;> rfl

theorem witness_StepKeepsTheResidualInvariant :
    (∃ t, Inv (parsing st bytesA) ∧ step (parsing st bytesA) = .next t) ∧
    (∃ t, Inv { st with resid := [0xFE] } ∧ step { st with resid := [0xFE] } = .next t) := ⟨⟨_, by decide, rfl⟩,
      ⟨_, by decide, rfl⟩⟩

/-- A pack program whose offset operand lies past the end of its buffer, before its first token. -/
def packingPastTheEnd : State := { st with run := .pack (startPack [] [⟨1, .I⟩] [[0x61]] (zeros 4) 9 .host) }

theorem witness_StepKeepsTheCursorsInBounds :
    (∃ t, cursorsOk (parsing st bytesA).run ∧ step (parsing st bytesA) = .next t) ∧
    (∃ t, cursorsOk unpackingFrame.run ∧ step unpackingFrame = .next t) ∧
    (∃ t, cursorsOk (packingNothing 4).run ∧ step (packingNothing 4) = .next t) ∧
    (∃ t, cursorsOk (encoded reqS).run ∧ step (encoded reqS) = .next t) ∧
    (∃ t, cursorsOk packingPastTheEnd.run ∧ step packingPastTheEnd = .next t) :=
  ⟨⟨_, Nat.zero_le _, rfl⟩, ⟨_, ⟨Nat.zero_le _, Nat.zero_le _, Nat.le_refl _⟩, rfl⟩,
    ⟨_, ⟨Nat.zero_le _, .inl rfl⟩, rfl⟩, ⟨_, ⟨Nat.le_refl _, .inr (Nat.le_refl _)⟩, rfl⟩,
    ⟨_, ⟨Nat.zero_le _, .inl rfl⟩, rfl⟩⟩

theorem witness_EveryCommandCompletes :
    isCommand (.parse bytesA) = true ∧
    st.run = .idle := by
  and_intros <;> rfl

theorem witness_CodecCommandsReadNoRegister :
    st.run = .idle ∧
    { faulted with crc := 0, trash := 3 }.run = .idle ∧
    { faulted with crc := 0, trash := 3 }.registry = st.registry := by
  and_intros <;> rfl

theorem witness_RegistersHaveTheirWriters :
    (∃ t, exec (.unpack [] [] []) st = .next t) ∧
    writesCrc (.unpack [] [] []) = false ∧
    isCommand (.unpack [] [] []) = true ∧
    writesParser (.unpack [] [] []) = false := ⟨⟨_, rfl⟩, rfl, rfl, rfl⟩

theorem witness_TheFaultIsSticky :
    faulted.run = .idle ∧
    faulted.fault ≠ none ∧
    (∃ t, exec .crcInit faulted = .next t) ∧
    Instr.crcInit ≠ .reset := ⟨rfl, by decide, ⟨_, rfl⟩, by decide⟩

theorem witness_CountersOnlyGrow :
    (∃ t, exec (.parse bytesA) st = .next t ∧ t.fault = none) ∧
    Instr.parse bytesA ≠ .reset := ⟨⟨_, rfl, by decide⟩, by decide⟩

theorem witness_NoStepWhileAnotherCommandRuns :
    isCommand .reset = true ∧
    (parsing st []).run ≠ .idle := by
  and_intros <;> first | rfl | decide

theorem witness_TokensAndFramesNeedTheirCommand :
    (∀ r, st.run ≠ .unpack r) ∧
    (∀ r, st.run ≠ .pack r) ∧
    (∀ p, st.run ≠ .parse p) := by
  and_intros <;> intro _ h <;> cases h

end Sys2Proof.Tests
end

section
/-! The host commands as one shape, and what follows for a command presented while another runs. -/

namespace Sys2Proof.Machine

open Sys2Proof.Safety

/-- Each of the fourteen commands is dispatched through `State.command` (R7, R61): its effect `f` does not decide
whether the command has a step. -/
theorem exec_eq_command {i : Instr} (h : isCommand i = true) : ∃ f, ∀ s, exec i s = s.command f := by
  cases i with
  | reset | rdcnt | crcInit | crcStep | crcSeed | crcBuf | crcRd | crcFrame | fmtTok | unpack | pack | parse | encode
  | buildDefault => exact ⟨_, fun _ => rfl⟩
  | _ => cases h

/-- Settles O59: a command is a `State.command`, which has no step unless the instance is idle. -/
theorem noStepWhileAnotherCommandRuns : Obligations.NoStepWhileAnotherCommandRuns := by
  intro s i hcmd hbusy
  obtain ⟨f, hf⟩ := exec_eq_command hcmd
  rw [hf]
  exact State.command_busy f hbusy

end Sys2Proof.Machine
end

section
/-! One character of a wire-format string and the causes of `E_FORMAT` (R100, R101, R124, R127). -/

namespace Sys2Proof

open Sys2Proof.Safety

/-- The eleven characters of R83 are those the type codes are written with (R85). -/
theorem codeChars_eq_map_char : codeChars = TypeCode.all.map TypeCode.char := rfl

theorem typeCodeOf_eq_none {ch : Byte} (h : ch ∉ codeChars) : typeCodeOf ch = none := by
  rw [codeChars_eq_map_char, List.mem_map] at h
  rw [typeCodeOf, List.find?_eq_none]
  intro code hmem heq
  exact h ⟨code, hmem, of_decide_eq_true heq⟩

theorem charStep_unrecognized (n : Option Nat) {ch : Byte} (hd : ¬ isDigit ch) (hc : ch ∉ codeChars) :
    charStep n ch = .error (.unrecognized ch) := by
  simp only [charStep, digitOf, if_neg hd, typeCodeOf_eq_none hc]

/-- The decimal digits are the ten characters `digitChar` writes (R83). -/
theorem exists_digitChar_of_isDigit {ch : Byte} (h : isDigit ch) : ∃ d < 10, ch = digitChar d := by
  obtain ⟨hlo, hhi⟩ := h
  refine ⟨ch.toNat - 0x30, by omega, ?_⟩
  rw [digitChar, Nat.add_sub_of_le hlo, BitVec.ofNat_toNat, BitVec.setWidth_eq]

/-- All one character can do (R121): digits, and digits alone, go on with the count; any other character completes a
token or is a cause of failure by itself. -/
theorem charStep_cases (n : Option Nat) (ch : Byte) :
    (isDigit ch ∧ ∃ m, charStep n ch = .ok (.digit m)) ∨ (∃ t, charStep n ch = .ok (.token t)) ∨
      charStep n ch = .error .zeroCount ∨ charStep n ch = .error (.unrecognized ch) := by
  by_cases hd : isDigit ch
  · obtain ⟨d, hlt, rfl⟩ := exists_digitChar_of_isDigit hd
    exact .inl ⟨hd, _, charStep_digit n hlt⟩
  · right
    simp only [charStep, digitOf, if_neg hd]
    cases typeCodeOf ch with
    | none => exact .inr (.inr rfl)
    | some code =>
      cases n with
      | none => exact .inl ⟨⟨1, code⟩, rfl⟩
      | some m =>
        dsimp only
        split
        · exact .inr (.inl rfl)
        · exact .inl ⟨_, rfl⟩

theorem isDigit_of_charStep_digit {n : Option Nat} {ch : Byte} {m : Nat} (h : charStep n ch = .ok (.digit m)) :
    isDigit ch := by
  obtain ⟨hd, -⟩ | ⟨t, ht⟩ | hz | hu := charStep_cases n ch
  · exact hd
  · cases h.symm.trans ht
  · cases h.symm.trans hz
  · cases h.symm.trans hu

/-- No single character is a dangling run: only the end of the string is (R127). -/
theorem charStep_ne_dangling (n : Option Nat) (ch : Byte) : charStep n ch ≠ .error .dangling := by
  intro h
  obtain ⟨-, m, hm⟩ | ⟨t, ht⟩ | hz | hu := charStep_cases n ch
  · cases h.symm.trans hm
  · cases h.symm.trans ht
  · cases h.symm.trans hz
  · cases h.symm.trans hu

namespace Machine

variable {n : Option Nat} {ch : Byte} {rest : Bytes}

theorem tokenizeFrom_cons_of_error {e : FormatError} (h : charStep n ch = .error e) :
    tokenizeFrom n (ch :: rest) = .error e := by
  rw [tokenizeFrom, h]

theorem tokenizeFrom_cons_of_digit {m : Nat} (h : charStep n ch = .ok (.digit m)) :
    tokenizeFrom n (ch :: rest) = tokenizeFrom (some m) rest := by
  rw [tokenizeFrom, h]

/-- A complete token is no cause of failure: the string fails as the characters after it do. -/
theorem tokenizeFrom_cons_of_token {t : Token} {e : FormatError} (h : charStep n ch = .ok (.token t)) :
    tokenizeFrom n (ch :: rest) = .error e ↔ tokenizeFrom none rest = .error e := by
  rw [tokenizeFrom, h]
  cases tokenizeFrom none rest <;> simp

theorem tokenizeFrom_cons_unrecognized (hd : ¬ isDigit ch) (hc : ch ∉ codeChars) :
    tokenizeFrom n (ch :: rest) = .error (.unrecognized ch) :=
  tokenizeFrom_cons_of_error (charStep_unrecognized n hd hc)

theorem tokenizeFrom_singleton_digit (h : isDigit ch) : tokenizeFrom n [ch] = .error .dangling := by
  obtain ⟨d, hd, rfl⟩ := exists_digitChar_of_isDigit h
  rw [tokenizeFrom_digit hd, tokenizeFrom]

/-- The leftmost cause decides (R272): where `rest` fails with `e` whatever count precedes it, a string that ends in
`rest` fails with `e`, or with a cause before it that already ends `before`. -/
theorem tokenizeFrom_append_error {before : Bytes} {e : FormatError} (hrest : ∀ m, tokenizeFrom m rest = .error e) :
    ∃ e', tokenizeFrom n (before ++ rest) = .error e' ∧
      (e' = e ∨ e' ≠ .dangling ∧ tokenizeFrom n before = .error e') := by
  induction before generalizing n with
  | nil => exact ⟨e, hrest n, .inl rfl⟩
  | cons c cs ih =>
    rw [List.cons_append]
    match hstep : charStep n c with
    | .error ec =>
      have hne : ec ≠ .dangling := fun h => charStep_ne_dangling n c (h ▸ hstep)
      exact ⟨ec, tokenizeFrom_cons_of_error hstep, .inr ⟨hne, tokenizeFrom_cons_of_error hstep⟩⟩
    | .ok (.digit m) =>
      rw [tokenizeFrom_cons_of_digit hstep, tokenizeFrom_cons_of_digit hstep]
      exact ih
    | .ok (.token t) =>
      simp only [tokenizeFrom_cons_of_token hstep]
      exact ih

/-- A run of digits dangles only at the end of the string (R101, R127). -/
theorem eq_append_digit_of_dangling {fmt : Bytes} (h : tokenizeFrom n fmt = .error .dangling) :
    fmt = [] ∨ ∃ before ch, fmt = before ++ [ch] ∧ isDigit ch := by
  induction fmt generalizing n with
  | nil => exact .inl rfl
  | cons c cs ih =>
    right
    match hstep : charStep n c with
    | .error ec =>
      rw [tokenizeFrom_cons_of_error hstep] at h
      cases h
      exact absurd hstep (charStep_ne_dangling n c)
    | .ok (.digit m) =>
      rw [tokenizeFrom_cons_of_digit hstep] at h
      obtain rfl | ⟨before, last, rfl, hlast⟩ := ih h
      · exact ⟨[], c, rfl, isDigit_of_charStep_digit hstep⟩
      · exact ⟨c :: before, last, rfl, hlast⟩
    | .ok (.token t) =>
      rw [tokenizeFrom_cons_of_token hstep] at h
      obtain rfl | ⟨before, last, rfl, hlast⟩ := ih h
      · cases h
      · exact ⟨c :: before, last, rfl, hlast⟩

end Machine

end Sys2Proof
end

section
/-! FMT.TOK of a string whose last part fails whatever stands before it. -/

namespace Sys2Proof.Machine

open Sys2Proof.Safety

variable {s : State} {before rest : Bytes} {e : FormatError}

/-- A string that does not tokenize gets `E_FORMAT`, whatever the cause, and nothing else changes (R121). -/
theorem exec_fmtTok_error {fmt : Bytes} (hidle : s.run = .idle) (h : tokenize fmt = .error e) :
    exec (.fmtTok fmt) s = .next { s with rsp := s.rsp ++ [.error .eFormat] } := by
  change execFmtTok fmt s = _
  rw [execFmtTok, State.command_idle _ hidle, h, State.respond, ← hidle]

/-- What a failing suffix does: FMT.TOK answers `E_FORMAT` whatever precedes it, and the suffix is the cause where what
precedes it is none. -/
theorem fmtTok_append_error (hidle : s.run = .idle) (hrest : ∀ m, tokenizeFrom m rest = .error e) :
    exec (.fmtTok (before ++ rest)) s = .next { s with rsp := s.rsp ++ [.error .eFormat] } ∧
    ((tokenize before = .error .dangling ∨ ∃ toks, tokenize before = .ok toks) →
      tokenize (before ++ rest) = .error e) := by
  obtain ⟨e', happ, hcause⟩ := tokenizeFrom_append_error (n := none) (before := before) hrest
  refine ⟨exec_fmtTok_error hidle happ, fun hbefore => ?_⟩
  obtain rfl | ⟨hne, hfail⟩ := hcause
  · exact happ
  · obtain hdangling | ⟨toks, hok⟩ := hbefore
    · exact absurd (Except.error.inj (hfail.symm.trans hdangling)) hne
    · cases hfail.symm.trans hok

/-- Settles O10: such a character fails the rest of the string after every count. -/
theorem unrecognizedCharacterIsFormatError : Obligations.UnrecognizedCharacterIsFormatError := by
  intro s before after ch hidle hdigit hcode
  exact fmtTok_append_error hidle fun _ => tokenizeFrom_cons_unrecognized hdigit hcode

/-- Settles O11: a last digit dangles after every count, and a string whose digits dangle has a last digit, since the
empty string tokenizes. -/
theorem danglingDigitsAreFormatError : Obligations.DanglingDigitsAreFormatError := by
  refine ⟨fun s before ch hidle hdigit => ?_, fun fmt h => ?_⟩
  · exact fmtTok_append_error hidle fun _ => tokenizeFrom_singleton_digit hdigit
  · obtain rfl | hlast := eq_append_digit_of_dangling h
    · cases h
    · exact hlast

end Sys2Proof.Machine
end

section
/-! The unpack direction of one token: its characters (R84, R87, R115), and the field its microcodelet reads where the
field fits in the buffer (R134 to R148). -/

namespace Sys2Proof

open Sys2Proof.Machine Sys2Proof.Safety

/-! ## The characters of one token -/

theorem readToken_digit (n : Option Nat) {d : Nat} (h : d < 10) (rest : Bytes) :
    readToken n (digitChar d :: rest) = readToken (some (10 * n.getD 0 + d)) rest := by
  rw [readToken, charStep_digit n h]

theorem readToken_code {n : Option Nat} (h : n ≠ some 0) (code : TypeCode) (rest : Bytes) :
    readToken n (code.char :: rest) = .ok (⟨n.getD 1, code⟩, rest) := by
  rw [readToken, charStep_code n code h]

/-- A type code without digits is a token of count 1 (R84). -/
theorem decodeToken_code (dir : Dir) (code : TypeCode) (rest : Bytes) :
    decodeToken dir (code.char :: rest) = .ok (Token.instr dir ⟨1, code⟩, rest) := by
  rw [decodeToken, readToken_code (n := none) nofun]
  rfl

/-- One digit other than 0 before a type code is its count (R84). -/
theorem decodeToken_digit_code (dir : Dir) {d : Nat} (hpos : d ≠ 0) (hlt : d < 10) (code : TypeCode) (rest : Bytes) :
    decodeToken dir (digitChar d :: code.char :: rest) = .ok (Token.instr dir ⟨d, code⟩, rest) := by
  have hcount : some (10 * (none : Option Nat).getD 0 + d) = some d := by simp
  rw [decodeToken, readToken_digit none hlt, hcount, readToken_code (by simpa using hpos)]
  rfl

namespace Machine

/-! ## The field of one token -/

/-- A field of one byte is that byte (R9). -/
theorem ule_slice_one {buf : Bytes} {a : Nat} (h : a < buf.length) :
    ule (slice buf a (a + 1)) = (byteAt buf a).toNat := by
  rw [slice, List.drop_eq_getElem_cons h, Nat.add_sub_cancel_left, List.take_succ_cons, List.take_zero, byteAt,
    List.getD_eq_getElem _ _ h]
  rfl

/-- Element `k` of an array is read at `a + w*k` (R135). -/
theorem rdArray_eq_map (buf : Bytes) (a : Nat) (code : TypeCode) (cnt : Nat) :
    rdArray buf a code cnt = (List.range cnt).map fun k => rd buf (a + code.width * k) code := by
  induction cnt generalizing a with
  | zero => rfl
  | succ cnt ih =>
    have hnext (k : Nat) : a + code.width + code.width * k = a + code.width * (k + 1) := by ring
    simp [rdArray, ih, hnext, List.range_succ_eq_map]

theorem readNumeric_eq_map (code : TypeCode) (buf : Bytes) (a cnt : Nat) :
    readNumeric code buf a cnt = if cnt = 1 then .scalar (rd buf a code)
      else .arr ((List.range cnt).map fun k => rd buf (a + code.width * k) code) := by
  rw [readNumeric, rdArray_eq_map]

/-- A microcodelet reads the field of its rule wherever the field fits. The codes but `B` and `c` read by `rd`, which is
the rule's own word (R134); a scalar `B` or `c` is the byte at `a`, which has to be there. -/
theorem microU_eq_tokenField {code : TypeCode} {buf : Bytes} {a cnt : Nat} (h : a + cnt * code.width ≤ buf.length) :
    microU code buf a cnt = tokenField code buf a cnt := by
  cases code with
  | f => exact readNumeric_eq_map .f buf a cnt
  | d => exact readNumeric_eq_map .d buf a cnt
  | b => exact readNumeric_eq_map .b buf a cnt
  | h => exact readNumeric_eq_map .h buf a cnt
  | H => exact readNumeric_eq_map .H buf a cnt
  | i => exact readNumeric_eq_map .i buf a cnt
  | I => exact readNumeric_eq_map .I buf a cnt
  | q => exact readNumeric_eq_map .q buf a cnt
  | Q => exact readNumeric_eq_map .Q buf a cnt
  | B =>
    rw [microU, microUB, tokenField]
    split
    · subst cnt
      rw [rd, TypeCode.width, ule_slice_one h]
    · rfl
  | c =>
    rw [microU, microUc, tokenField]
    split
    · subst cnt
      rw [rd, TypeCode.width, ule_slice_one h, BitVec.ofNat_toNat, BitVec.setWidth_eq]
    · rfl

/-- What an unpack token does where its field fits (R36, R130, R136): it reads the field and advances the cursors, and
nothing else changes. -/
theorem exec_unpack_token_fits (t : Token) {s : State} {r : UnpackRun} (hr : s.run = .unpack r)
    (h : r.cur + t.size ≤ r.buf.length) :
    exec (t.instr .unpack) s =
      .next { s with run := afterRead r t.size (tokenField t.code r.buf r.cur t.count) } := by
  rw [exec_unpack_token, unpackStep_fits hr h, microU_eq_tokenField h]
  rfl

/-- Settles O15: the four tokens are instances of the rules for every token. -/
theorem unsignedTokensReadTheirField : Obligations.UnsignedTokensReadTheirField := by
  refine ⟨fun rest => ⟨?_, ?_, ?_, ?_, ?_⟩, fun s r cnt hr _ => ⟨fun h => ?_, fun h => ?_, fun h => ?_, fun h => ?_⟩⟩
  · exact decodeToken_code .unpack .B rest
  · exact decodeToken_digit_code .unpack Nat.one_ne_zero (by decide) .B rest
  · exact decodeToken_code .unpack .H rest
  · exact decodeToken_code .unpack .I rest
  · exact decodeToken_code .unpack .Q rest
  · have hsize : Token.size ⟨cnt, .B⟩ = cnt := Nat.mul_one cnt
    have hread := exec_unpack_token_fits ⟨cnt, .B⟩ hr (by rwa [hsize])
    rwa [hsize] at hread
  · exact exec_unpack_token_fits ⟨cnt, .H⟩ hr h
  · exact exec_unpack_token_fits ⟨cnt, .I⟩ hr h
  · exact exec_unpack_token_fits ⟨cnt, .Q⟩ hr h

end Machine

end Sys2Proof
end

section
/-! The frame decoder, an equation for each answer (R90 to R93, R107, R200 to R203), and the candidate frame as the
bytes it was cut from. -/

namespace Sys2Proof

open Sys2Proof.Safety

/-! ## Slices -/

theorem slice_zero (B : Bytes) (n : Nat) : slice B 0 n = B.take n := rfl

theorem slice_append_slice (B : Bytes) {i j k : Nat} (hij : i ≤ j) (hjk : j ≤ k) :
    slice B i j ++ slice B j k = slice B i k := by
  have hsplit : k - i = (j - i) + (k - j) := by omega
  rw [slice, slice, slice, hsplit, List.take_add, List.drop_drop, Nat.add_sub_cancel' hij]

/-- Bytes listed one by one are a slice. -/
theorem map_byteAt_range {B : Bytes} {a n : Nat} (h : a + n ≤ B.length) :
    (List.range n).map (fun k => byteAt B (a + k)) = slice B a (a + n) := by
  apply List.ext_getElem
  · rw [List.length_map, List.length_range, slice_length]
    omega
  · intro k hk _
    rw [List.length_map, List.length_range] at hk
    have hlt : a + k < B.length := by omega
    simp [slice, byteAt, hlt]

/-- A little-endian field read at `a` is written as the bytes it was read from (R9, R52). -/
theorem le_ule_slice {B : Bytes} {a n : Nat} (h : a + n ≤ B.length) :
    le n (ule (slice B a (a + n))) = slice B a (a + n) := by
  have hlen : (slice B a (a + n)).length = n := by rw [slice_length]; omega
  calc le n (ule (slice B a (a + n)))
      = le (slice B a (a + n)).length (ule (slice B a (a + n))) := by rw [hlen]
    _ = slice B a (a + n) := le_ule _

/-- A little-endian field kept in a word of its own width is written as the bytes it was read from. -/
theorem le_toNat_ofNat_ule_slice {B : Bytes} {a : Nat} (n : Nat) (h : a + n ≤ B.length) :
    le n (BitVec.ofNat (8 * n) (ule (slice B a (a + n)))).toNat = slice B a (a + n) := by
  have hlen : (slice B a (a + n)).length = n := by rw [slice_length]; omega
  have hlt : ule (slice B a (a + n)) < 2 ^ (8 * n) := by
    calc ule (slice B a (a + n)) < 256 ^ (slice B a (a + n)).length := ule_lt _
      _ = 2 ^ (8 * n) := by rw [hlen, Nat.pow_mul]
  rw [BitVec.toNat_ofNat, Nat.mod_eq_of_lt hlt, le_ule_slice h]

/-! ## What the frame decoder answers -/

variable {bs : Bytes}

theorem decodeFrame_notMarker (hne : bs ≠ []) (h1 : byteAt bs 0 ≠ Config.markV1) (h2 : byteAt bs 0 ≠ Config.markV2) :
    decodeFrame bs = .error .notMarker := by
  cases bs with
  | nil => exact absurd rfl hne
  | cons m rest =>
    change m ≠ _ at h1 h2
    simp only [decodeFrame, if_neg h1, if_neg h2]

/-- At a v1 marker with the whole header there, the declared length decides (R201 to R203). -/
theorem decodeFrame_markV1 (hm : byteAt bs 0 = Config.markV1) (hhl : Config.hlV1 ≤ bs.length) :
    decodeFrame bs = if bs.length < totalV1 bs then .error .frameWait
      else .ok (.v1 (fieldsV1 (bs.take (totalV1 bs))), totalV1 bs) := by
  cases bs with
  | nil => cases hm
  | cons m rest =>
    change m = _ at hm
    simp only [decodeFrame, if_pos hm, if_neg (Nat.not_lt.mpr hhl)]

/-- At a v2 marker with the whole header there, the declared length decides (R201 to R203). -/
theorem decodeFrame_markV2 (hm : byteAt bs 0 = Config.markV2) (hhl : Config.hlV2 ≤ bs.length) :
    decodeFrame bs = if bs.length < totalV2 bs then .error .frameWait
      else .ok (.v2 (fieldsV2 (bs.take (totalV2 bs))), totalV2 bs) := by
  have hne : Config.markV2 ≠ Config.markV1 := by decide
  cases bs with
  | nil => cases hm
  | cons m rest =>
    change m = _ at hm
    subst hm
    simp only [decodeFrame, if_neg hne, if_pos, if_neg (Nat.not_lt.mpr hhl)]

theorem hlV1_le_totalV1 (bs : Bytes) : Config.hlV1 ≤ totalV1 bs := by
  rw [totalV1, Nat.add_assoc]
  exact Nat.le_add_right _ _

theorem hlV2_le_totalV2 (bs : Bytes) : Config.hlV2 ≤ totalV2 bs := by
  rw [totalV2, Nat.add_assoc, Nat.add_assoc]
  exact Nat.le_add_right _ _

/-- When the decoder answers a frame: the marker selects the version, and everything its header declares is there
(R93, R201, R203). -/
theorem decodeFrame_ok_iff {fr : Frame} {total : Nat} :
    decodeFrame bs = .ok (fr, total) ↔
      byteAt bs 0 = Config.markV1 ∧ total = totalV1 bs ∧ total ≤ bs.length ∧ fr = .v1 (fieldsV1 (bs.take total)) ∨
      byteAt bs 0 = Config.markV2 ∧ total = totalV2 bs ∧ total ≤ bs.length ∧ fr = .v2 (fieldsV2 (bs.take total)) := by
  constructor
  · intro h
    cases bs with
    | nil => cases h
    | cons m rest =>
      unfold decodeFrame at h
      dsimp only at h
      split at h
      · split at h
        · cases h
        · split at h
          · cases h
          · cases h
            exact .inl ⟨‹m = _›, rfl, Nat.not_lt.mp ‹_›, rfl⟩
      · split at h
        · split at h
          · cases h
          · split at h
            · cases h
            · cases h
              exact .inr ⟨‹m = _›, rfl, Nat.not_lt.mp ‹_›, rfl⟩
        · cases h
  · rintro (⟨hm, rfl, hle, rfl⟩ | ⟨hm, rfl, hle, rfl⟩)
    · rw [decodeFrame_markV1 hm ((hlV1_le_totalV1 bs).trans hle), if_neg (Nat.not_lt.mpr hle)]
    · rw [decodeFrame_markV2 hm ((hlV2_le_totalV2 bs).trans hle), if_neg (Nat.not_lt.mpr hle)]

/-! ## The bytes of a decoded frame -/

variable {F : Bytes}

theorem ule_slice_two {a : Nat} (h : a + 2 ≤ F.length) :
    ule (slice F a (a + 2)) = (byteAt F a).toNat + 256 * (byteAt F (a + 1)).toNat := by
  rw [← map_byteAt_range h]
  rfl

theorem le_crcAt {a : Nat} (h : a + 2 ≤ F.length) : le 2 (crcAt F a).toNat = slice F a (a + 2) := by
  rw [crcAt, ← ule_slice_two h]
  exact le_toNat_ofNat_ule_slice 2 h

/-- The signature block taken from a frame is written as the 13 bytes from offset `12 + L` (R96, R187). -/
theorem sigExtract_bytes {L : Nat} (h : 12 + L + 13 ≤ F.length) :
    (sigExtract F L).bytes = slice F (12 + L) (12 + L + 13) := by
  have hlink : [byteAt F (12 + L)] = slice F (12 + L) (12 + L + 1) := map_byteAt_range (a := 12 + L) (n := 1) (by omega)
  have htime : le 6 (BitVec.ofNat 48 (ule (slice F (12 + L + 1) (12 + L + 7)))).toNat =
      slice F (12 + L + 1) (12 + L + 7) := le_toNat_ofNat_ule_slice 6 (by omega)
  have htag : (sigExtract F L).tag.bytes = slice F (12 + L + 7) (12 + L + 13) :=
    map_byteAt_range (a := 12 + L + 7) (n := 6) (by omega)
  calc (sigExtract F L).bytes
      = slice F (12 + L) (12 + L + 1) ++ slice F (12 + L + 1) (12 + L + 7) ++
          slice F (12 + L + 7) (12 + L + 13) := by rw [← hlink, ← htime, ← htag]; rfl
    _ = slice F (12 + L) (12 + L + 13) := by
        rw [slice_append_slice F (by omega) (by omega), slice_append_slice F (by omega) (by omega)]

theorem fieldsV1_wf (h : totalV1 F ≤ F.length) : (fieldsV1 F).wf = true := by
  simp only [totalV1, Config.hlV1, Config.crcLen] at h
  have hlen : (fieldsV1 F).payload.length = (fieldsV1 F).len.toNat := by
    simp only [fieldsV1, slice_length, Config.hlV1]
    omega
  exact decide_eq_true hlen

theorem fieldsV2_wf (h : totalV2 F ≤ F.length) : (fieldsV2 F).wf = true := by
  simp only [totalV2, Config.hlV2, Config.crcLen] at h
  have hlen : (fieldsV2 F).payload.length = (fieldsV2 F).len.toNat := by
    simp only [fieldsV2, slice_length, Config.hlV2]
    omega
  have hsig : (fieldsV2 F).sig.isSome = (fieldsV2 F).incompat.getLsbD 0 := by
    change (if signedV2 F then some _ else none).isSome = signedV2 F
    cases signedV2 F <;> rfl
  rw [FrameV2.wf, hsig, decide_eq_true hlen, beq_self_eq_true]
  rfl

/-- The fields of a v1 frame are written back as the frame (R90). -/
theorem fieldsV1_bytes (hm : byteAt F 0 = Config.markV1) (h : totalV1 F ≤ F.length) :
    (fieldsV1 F).bytes = F.take (totalV1 F) := by
  have hL := h
  simp only [totalV1, Config.hlV1, Config.crcLen] at hL
  set L := (byteAt F 1).toNat
  have hhead : headerBytesV1 (byteAt F 1) (byteAt F 2) (byteAt F 3) (byteAt F 4) (byteAt F 5) = slice F 0 6 := by
    rw [headerBytesV1, ← hm]
    exact map_byteAt_range (a := 0) (n := 6) (by omega)
  calc (fieldsV1 F).bytes
      = slice F 0 6 ++ slice F 6 (6 + L) ++ slice F (6 + L) (6 + L + 2) := by
        rw [← hhead, ← le_crcAt hL]; rfl
    _ = slice F 0 (6 + L + 2) := by
        rw [slice_append_slice F (by omega) (by omega), slice_append_slice F (by omega) (by omega)]
    _ = F.take (totalV1 F) := slice_zero F _

theorem FrameV2.bytes_eq (fr : FrameV2) :
    fr.bytes = headerBytesV2 fr.len fr.incompat fr.compat fr.seq fr.sys fr.comp fr.msgid ++ fr.payload ++
      le 2 fr.crc.toNat ++ fr.sig.elim [] SigBlock.bytes := by
  rw [FrameV2.bytes]
  cases fr.sig <;> rfl

/-- A signature block is written back exactly where the header declares one (R95, R96, R201). -/
theorem fieldsV2_sig_bytes (h : totalV2 F ≤ F.length) :
    (fieldsV2 F).sig.elim [] SigBlock.bytes = slice F (10 + (byteAt F 1).toNat + 2) (totalV2 F) := by
  simp only [totalV2, Config.hlV2, Config.crcLen, Config.sigLen] at h ⊢
  cases hs : signedV2 F with
  | false => simp [fieldsV2, hs, slice]
  | true =>
    have hoff : 12 + (byteAt F 1).toNat = 10 + (byteAt F 1).toNat + 2 := by omega
    have hsig : (fieldsV2 F).sig = some (sigExtract F (byteAt F 1).toNat) := if_pos hs
    rw [if_pos hs, ← hoff] at h
    rw [hsig, if_pos rfl, ← hoff]
    exact sigExtract_bytes h

/-- The fields of a v2 frame are written back as the frame, its signature block with it (R91, R96). -/
theorem fieldsV2_bytes (hm : byteAt F 0 = Config.markV2) (h : totalV2 F ≤ F.length) :
    (fieldsV2 F).bytes = F.take (totalV2 F) := by
  have hsig := fieldsV2_sig_bytes h
  have hcrc : 10 + (byteAt F 1).toNat + 2 ≤ totalV2 F := Nat.le_add_right _ _
  set L := (byteAt F 1).toNat
  have hseven : [byteAt F 0, byteAt F 1, byteAt F 2, byteAt F 3, byteAt F 4, byteAt F 5, byteAt F 6] = slice F 0 7 :=
    map_byteAt_range (a := 0) (n := 7) (by omega)
  have hid : le 3 (BitVec.ofNat 24 (ule (slice F 7 10))).toNat = slice F 7 10 :=
    le_toNat_ofNat_ule_slice 3 (by omega)
  have hhead : headerBytesV2 (byteAt F 1) (byteAt F 2) (byteAt F 3) (byteAt F 4) (byteAt F 5) (byteAt F 6)
      (BitVec.ofNat 24 (ule (slice F 7 10))) = slice F 0 10 := by
    rw [headerBytesV2, ← hm, hseven, hid, slice_append_slice F (by omega) (by omega)]
  calc (fieldsV2 F).bytes
      = slice F 0 10 ++ slice F 10 (10 + L) ++ slice F (10 + L) (10 + L + 2) ++ slice F (10 + L + 2) (totalV2 F) := by
        rw [← hhead, ← le_crcAt (hcrc.trans h), ← hsig, FrameV2.bytes_eq]; rfl
    _ = slice F 0 (totalV2 F) := by
        rw [slice_append_slice F (by omega) (by omega), slice_append_slice F (by omega) (by omega),
          slice_append_slice F (by omega) (by omega)]
    _ = F.take (totalV2 F) := slice_zero F _

/-- A header declares its total length within that length. -/
theorem totalV1_take (bs : Bytes) : totalV1 (bs.take (totalV1 bs)) = totalV1 bs := by
  have h1 : 1 < totalV1 bs := lt_of_lt_of_le (by decide) (hlV1_le_totalV1 bs)
  conv_lhs => rw [totalV1, byteAt_take h1]
  rfl

theorem totalV2_take (bs : Bytes) : totalV2 (bs.take (totalV2 bs)) = totalV2 bs := by
  have h2 : 2 < totalV2 bs := lt_of_lt_of_le (by decide) (hlV2_le_totalV2 bs)
  conv_lhs => rw [totalV2, signedV2, byteAt_take h2, byteAt_take (by omega)]
  rfl

/-- The decoder answers well-formed frames, and their bytes are the bytes it took (R90, R91, R203). -/
theorem decodeFrame_ok_bytes {fr : Frame} {total : Nat} (h : decodeFrame bs = .ok (fr, total)) :
    frameWf fr = true ∧ frameBytes fr = bs.take total := by
  obtain ⟨hm, rfl, hle, rfl⟩ | ⟨hm, rfl, hle, rfl⟩ := decodeFrame_ok_iff.mp h
  · have hpos : 0 < totalV1 bs := lt_of_lt_of_le (by decide) (hlV1_le_totalV1 bs)
    have hcut : totalV1 (bs.take (totalV1 bs)) ≤ (bs.take (totalV1 bs)).length := by
      rw [totalV1_take, List.length_take, Nat.min_eq_left hle]
    refine ⟨fieldsV1_wf hcut, ?_⟩
    have hbytes := fieldsV1_bytes (by rwa [byteAt_take hpos]) hcut
    rwa [totalV1_take, List.take_take, Nat.min_self] at hbytes
  · have hpos : 0 < totalV2 bs := lt_of_lt_of_le (by decide) (hlV2_le_totalV2 bs)
    have hcut : totalV2 (bs.take (totalV2 bs)) ≤ (bs.take (totalV2 bs)).length := by
      rw [totalV2_take, List.length_take, Nat.min_eq_left hle]
    refine ⟨fieldsV2_wf hcut, ?_⟩
    have hbytes := fieldsV2_bytes (by rwa [byteAt_take hpos]) hcut
    rwa [totalV2_take, List.take_take, Nat.min_self] at hbytes

end Sys2Proof
end

section
/-! The micro-steps of a PARSE, one rule for each thing the parser finds at its scan cursor (R195, R198 to R203). -/

namespace Sys2Proof.Machine

variable {s : State} {p : ParseRun}

/-! ## The bytes at the scan cursor -/

theorem ParseRun.rest_length (p : ParseRun) : p.rest.length = p.w.length - p.sc := List.length_drop

theorem ParseRun.byteAt_rest (p : ParseRun) (i : Nat) : byteAt p.rest i = byteAt p.w (p.sc + i) := byteAt_drop _ _ _

/-- The total length the v1 header at the scan cursor declares (R201). -/
theorem ParseRun.totalV1_rest (p : ParseRun) : totalV1 p.rest = 6 + (byteAt p.w (p.sc + 1)).toNat + 2 := by
  rw [totalV1, p.byteAt_rest]
  rfl

/-- The total length the v2 header at the scan cursor declares, 13 more when it is signed (R201). -/
theorem ParseRun.totalV2_rest (p : ParseRun) :
    totalV2 p.rest = 10 + (byteAt p.w (p.sc + 1)).toNat + 2 +
      (if (byteAt p.w (p.sc + 2)).getLsbD 0 then 13 else 0) := by
  rw [totalV2, signedV2, p.byteAt_rest, p.byteAt_rest]
  rfl

/-! ## What a micro-step does -/

theorem parseMicro_exhausted (h : p.sc = p.w.length) : parseMicro p s = endParse [] p s := by
  have hrest : p.rest = [] := List.drop_eq_nil_of_le h.ge
  rw [parseMicro, parseAction, hrest]
  rfl

theorem parseMicro_trash (hsc : p.sc < p.w.length) (h1 : byteAt p.w p.sc ≠ Config.markV1)
    (h2 : byteAt p.w p.sc ≠ Config.markV2) : parseMicro p s = scanTrash p s := by
  have hne : p.rest ≠ [] := fun h => by
    have hlen := p.rest_length
    rw [h, List.length_nil] at hlen
    omega
  have hdec : decodeFrame p.rest = .error .notMarker :=
    decodeFrame_notMarker hne (by rwa [p.byteAt_rest]) (by rwa [p.byteAt_rest])
  rw [parseMicro, parseAction, hdec]

/-- At a frame that is not there in full the command ends, and everything from its marker on is kept (R202). -/
theorem step_parse_frameWait (hr : s.run = .parse p) (h : decodeFrame p.rest = .error .frameWait) :
    step s = .next { s with resid := p.w.drop p.sc, rsp := s.rsp ++ [.messages p.out], run := .idle } := by
  rw [step_parse hr, parseMicro, parseAction, h]
  rfl

/-- At a complete frame the step is the frame's, at the state whose cursor has moved past it (R203). -/
theorem step_parse_frame {fr : Frame} {total : Nat} (hr : s.run = .parse p)
    (h : decodeFrame p.rest = .ok (fr, total)) :
    step s = exec fr.instr { s with run := .parse { p with sc := p.sc + total } } := by
  rw [step, hr]
  dsimp only
  rw [stepParse, parseAction, h]
  rfl

/-- A frame that leaves the PARSE running leaves its bytes and its cursor alone (R205, R229). -/
theorem exec_frame_keeps_scan {fr : Frame} {t : State} {q : ParseRun} (hr : s.run = .parse p)
    (h : exec fr.instr s = .next t) (hq : t.run = .parse q) : q.sc = p.sc ∧ q.w = p.w := by
  rw [exec_frame, frameStep_parse hr] at h
  cases h
  obtain ⟨d, hfault⟩ | ⟨q', hw, hsc, hrun⟩ := runCandidate_cases (candidateOf fr) p s
  · rw [hfault] at hq
    cases hq
  · have hq' : (runCandidate (candidateOf fr) p s).run = .parse q' := by
      obtain ⟨-, h⟩ | ⟨-, h | h⟩ | ⟨m, -, h⟩ := hrun <;> rw [h] <;> rfl
    rw [hq'] at hq
    cases hq
    exact ⟨hsc, hw⟩

/-! ## A PARSE over bytes without a marker -/

/-- The parser from a cursor `n` bytes before the end of a `W` without a marker: it counts the `n` bytes and ends the
command with no residual (R198, R199). -/
theorem parseLoop_noMarker (n : Nat) (hr : s.run = .parse p) (hsc : p.sc + n = p.w.length)
    (hmark : ∀ b ∈ p.w, b ≠ Config.markV1 ∧ b ≠ Config.markV2) :
    parseLoop (n + 1) s =
      { s with resid := [], trash := s.trash + n, rsp := s.rsp ++ [.messages p.out], run := .idle } := by
  induction n generalizing s p with
  | zero => rw [parseLoop_parse 0 hr, parseMicro_exhausted hsc]; rfl
  | succ n ih =>
    have hlt : p.sc < p.w.length := by omega
    have hmem : byteAt p.w p.sc ∈ p.w := by
      rw [byteAt, List.getD_eq_getElem _ _ hlt]
      exact List.getElem_mem hlt
    obtain ⟨h1, h2⟩ := hmark _ hmem
    have hnext := ih (s := scanTrash p s) (p := p.advance 1) rfl (by simp only [ParseRun.advance]; omega) hmark
    rw [parseLoop_parse (n + 1) hr, parseMicro_trash hlt h1 h2, hnext]
    simp only [scanTrash, State.countTrash, State.setRun, ParseRun.advance, Nat.add_assoc, Nat.add_comm 1 n]

/-- PARSE of an idle block without a fault runs to completion (R7, R195). -/
theorem exec_parse (chunk : Bytes) (hidle : s.run = .idle) (hfault : s.fault = none) :
    exec (.parse chunk) s = .next (parseAll chunk s) := by
  change execParse chunk s = _
  rw [execParse, State.command_idle _ hidle, hfault]

/-! ## The statements -/

/-- Settles O32: the two micro-steps of the scan, and their run over a chunk by `parseLoop_noMarker`. -/
theorem scanCountsTrash : Obligations.ScanCountsTrash := by
  refine ⟨fun s p hr => ⟨fun hsc h1 h2 => ?_, fun hsc => ?_⟩, fun s chunk hidle hfault hresid hmark => ?_⟩
  · rw [step_parse hr, parseMicro_trash hsc h1 h2]
    rfl
  · rw [step_parse hr, parseMicro_exhausted hsc]
    rfl
  · rw [exec_parse chunk hidle hfault, parseAll, hresid, List.nil_append,
      parseLoop_noMarker (p := startParse chunk s) chunk.length rfl (by simp [startParse, hresid])
        (by rwa [startParse, hresid])]
    simp only [State.setRun, startParse, hresid, hidle]

/-- Settles O35: the decoder answers the frame, whose bytes are those it took. -/
theorem completeFrameIsSliced : Obligations.CompleteFrameIsSliced := by
  intro s p total hr hmark hfits
  have hle : total ≤ p.rest.length := by rw [p.rest_length]; omega
  obtain ⟨fr, hdec⟩ : ∃ fr, decodeFrame p.rest = .ok (fr, total) := by
    obtain ⟨hm, htotal⟩ | ⟨hm, htotal⟩ := hmark
    · exact ⟨_, decodeFrame_ok_iff.mpr (.inl ⟨by rwa [p.byteAt_rest], htotal.trans p.totalV1_rest.symm, hle, rfl⟩)⟩
    · exact ⟨_, decodeFrame_ok_iff.mpr (.inr ⟨by rwa [p.byteAt_rest], htotal.trans p.totalV2_rest.symm, hle, rfl⟩)⟩
  have hstep := step_parse_frame hr hdec
  obtain ⟨hwf, hbytes⟩ := decodeFrame_ok_bytes hdec
  refine ⟨fr, hwf, ?_, hstep, fun t q ht hq => ?_⟩
  · rw [hbytes, slice, Nat.add_sub_cancel_left]
    rfl
  · rw [hstep] at ht
    exact exec_frame_keeps_scan rfl ht hq

/-- Settles O34: for either version the decoder finds fewer bytes than the header declares. -/
theorem frameWaitKeepsTheTail : Obligations.FrameWaitKeepsTheTail := by
  intro s p hr
  refine ⟨fun hm hhl hlt => step_parse_frameWait hr ?_, fun hm hhl hlt => step_parse_frameWait hr ?_⟩
  · have hheader : Config.hlV1 ≤ p.rest.length := by rw [p.rest_length, Config.hlV1]; omega
    have hshort : p.rest.length < totalV1 p.rest := by rw [p.rest_length, p.totalV1_rest]; omega
    rw [decodeFrame_markV1 (by rwa [p.byteAt_rest]) hheader, if_pos hshort]
  · have hheader : Config.hlV2 ≤ p.rest.length := by rw [p.rest_length, Config.hlV2]; omega
    have hshort : p.rest.length < totalV2 p.rest := by rw [p.rest_length, p.totalV2_rest]; omega
    rw [decodeFrame_markV2 (by rwa [p.byteAt_rest]) hheader, if_pos hshort]

end Sys2Proof.Machine
end

section
/-! A candidate frame whose id has no descriptor (R219). -/

namespace Sys2Proof.Machine

open Sys2Proof.Safety

/-- The header record taken from a candidate frame is the frame's header (R216, R217). -/
theorem candidateOf_hdr (fr : Frame) : (candidateOf fr).hdr = frameHeader fr := by cases fr <;> rfl

/-- Setting what is running to what already runs changes nothing. -/
theorem State.setRun_eq_self {s : State} {r : Run} (h : s.run = r) : s.setRun r = s := by
  subst h
  rfl

/-- The lookup is the first test: without a descriptor neither checksum nor payload is looked at (R219, R226). -/
theorem judge_unknownId {registry : List Descriptor} {c : Candidate} (h : lookupIn registry c.hdr.messageId = none) :
    judge registry c = .unknownId := by
  rw [judge, h]

theorem runCandidate_unknownId {c : Candidate} {p : ParseRun} {s : State} (hr : s.run = .parse p)
    (h : lookupIn s.registry c.hdr.messageId = none) : runCandidate c p s = s.countUnkMsg := by
  have hrun : s.countUnkMsg.run = .parse p := hr
  rw [runCandidate, judge_unknownId h]
  exact State.setRun_eq_self hrun

/-- Settles O25: inside a PARSE the step is the candidate's, which finds no descriptor and moves `UNKMSG` only. -/
theorem unknownIdIsCountedAndDropped : Obligations.UnknownIdIsCountedAndDropped := by
  intro s p fr hr hunknown
  rw [← candidateOf_hdr] at hunknown
  rw [exec_frame, frameStep_parse hr, runCandidate_unknownId hr hunknown, State.countUnkMsg]

end Sys2Proof.Machine
end

section
/-! The encoder undone by the decoders (R81, R84, R90, R91, R115): a command, a token, a frame. And what the decoder
does with a written word and with an illegal command. -/

namespace Sys2Proof

open Sys2Proof.Machine Sys2Proof.Safety

/-! ## The three formats -/

/-- Every instruction is a host command, a token of one of the two directions, or a frame (R80, R85, R90, R91). -/
theorem Instr.kind (i : Instr) :
    isCommand i = true ∨ (∃ dir t, i = Token.instr dir t) ∨ ∃ fr : Frame, i = fr.instr := by
  cases i with
  | reset | rdcnt | crcInit | crcStep | crcSeed | crcBuf | crcRd | crcFrame | fmtTok | unpack | pack | parse | encode
  | buildDefault => exact .inl rfl
  | uf cnt => exact .inr (.inl ⟨.unpack, ⟨cnt, .f⟩, rfl⟩)
  | ud cnt => exact .inr (.inl ⟨.unpack, ⟨cnt, .d⟩, rfl⟩)
  | ub cnt => exact .inr (.inl ⟨.unpack, ⟨cnt, .b⟩, rfl⟩)
  | uB cnt => exact .inr (.inl ⟨.unpack, ⟨cnt, .B⟩, rfl⟩)
  | uh cnt => exact .inr (.inl ⟨.unpack, ⟨cnt, .h⟩, rfl⟩)
  | uH cnt => exact .inr (.inl ⟨.unpack, ⟨cnt, .H⟩, rfl⟩)
  | ui cnt => exact .inr (.inl ⟨.unpack, ⟨cnt, .i⟩, rfl⟩)
  | uI cnt => exact .inr (.inl ⟨.unpack, ⟨cnt, .I⟩, rfl⟩)
  | uq cnt => exact .inr (.inl ⟨.unpack, ⟨cnt, .q⟩, rfl⟩)
  | uQ cnt => exact .inr (.inl ⟨.unpack, ⟨cnt, .Q⟩, rfl⟩)
  | uc cnt => exact .inr (.inl ⟨.unpack, ⟨cnt, .c⟩, rfl⟩)
  | pf cnt => exact .inr (.inl ⟨.pack, ⟨cnt, .f⟩, rfl⟩)
  | pd cnt => exact .inr (.inl ⟨.pack, ⟨cnt, .d⟩, rfl⟩)
  | pb cnt => exact .inr (.inl ⟨.pack, ⟨cnt, .b⟩, rfl⟩)
  | pB cnt => exact .inr (.inl ⟨.pack, ⟨cnt, .B⟩, rfl⟩)
  | ph cnt => exact .inr (.inl ⟨.pack, ⟨cnt, .h⟩, rfl⟩)
  | pH cnt => exact .inr (.inl ⟨.pack, ⟨cnt, .H⟩, rfl⟩)
  | pi cnt => exact .inr (.inl ⟨.pack, ⟨cnt, .i⟩, rfl⟩)
  | pI cnt => exact .inr (.inl ⟨.pack, ⟨cnt, .I⟩, rfl⟩)
  | pq cnt => exact .inr (.inl ⟨.pack, ⟨cnt, .q⟩, rfl⟩)
  | pQ cnt => exact .inr (.inl ⟨.pack, ⟨cnt, .Q⟩, rfl⟩)
  | pc cnt => exact .inr (.inl ⟨.pack, ⟨cnt, .c⟩, rfl⟩)
  | frameV1 fr => exact .inr (.inr ⟨.v1 fr, rfl⟩)
  | frameV2 fr => exact .inr (.inr ⟨.v2 fr, rfl⟩)

/-! ## Commands -/

theorem decode_encode_command {i : Instr} (hcmd : isCommand i = true) (hwf : i.wf = true) :
    decode (encode i) = .ok i := by
  cases i with
  | reset | crcInit | crcStep | crcSeed | crcBuf | crcRd | crcFrame | fmtTok | unpack | parse | buildDefault => rfl
  | rdcnt k => cases k <;> rfl
  | pack map fmt names buf off =>
    change Mapping.wf map = true at hwf
    simp [encode, decode, decodeCommand, hwf]
  | encode req =>
    change Mapping.wf req.payload = true at hwf
    simp [encode, decode, decodeCommand, hwf]
  | _ => cases hcmd

/-! ## Tokens -/

/-- A decimal numeral is read back as the number it was written for (R84). -/
theorem readToken_decDigits {fuel n : Nat} (h : n < fuel) (rest : Bytes) :
    readToken none (decDigits fuel n ++ rest) = readToken (some n) rest := by
  induction fuel generalizing n rest with
  | zero => exact absurd h (Nat.not_lt_zero n)
  | succ fuel ih =>
    rw [decDigits]
    split
    · rename_i hlt
      rw [List.cons_append, List.nil_append, readToken_digit none hlt]
      simp
    · have hvalue : 10 * (n / 10) + n % 10 = n := Nat.div_add_mod n 10
      rw [List.append_assoc, ih (by omega), List.cons_append, List.nil_append,
        readToken_digit _ (Nat.mod_lt n (by decide)), Option.getD_some, hvalue]

/-- A token of a positive count is read back from its characters, whatever follows (R84, R87). -/
theorem readToken_chars {t : Token} (h : 1 ≤ t.count) (rest : Bytes) :
    readToken none (t.chars ++ rest) = .ok (t, rest) := by
  obtain ⟨count, code⟩ := t
  rw [Token.chars, List.append_assoc, List.cons_append, List.nil_append]
  split
  · rename_i hone
    cases hone
    exact readToken_code (by simp) code rest
  · have hne : some count ≠ some 0 := fun h0 => absurd (Option.some.inj h0) (Nat.one_le_iff_ne_zero.mp h)
    rw [readToken_decDigits (Nat.lt_succ_self _), readToken_code hne]
    rfl

theorem decode_encode_token {dir : Dir} {t : Token} (hwf : (t.instr dir).wf = true) :
    decode (encode (t.instr dir)) = .ok (t.instr dir) := by
  have hcount : (t.instr dir).wf = countWf t.count := by cases dir <;> cases t with | mk n code => cases code <;> rfl
  have hsource : encode (t.instr dir) = .tok dir t.chars := by
    cases dir <;> cases t with | mk n code => cases code <;> rfl
  have hread := readToken_chars (of_decide_eq_true (hcount.symm.trans hwf)) []
  rw [List.append_nil] at hread
  rw [hsource, decode, decodeToken, hread]

/-! ## Frames -/

/-- A word is written in one way only in as many bytes as it takes. -/
theorem eq_of_le_toNat_eq {w n : Nat} (hw : 2 ^ w ≤ 256 ^ n) {a b : BitVec w} (h : le n a.toNat = le n b.toNat) :
    a = b := by
  have hval := congrArg ule h
  rw [ule_le_of_lt (a.isLt.trans_le hw), ule_le_of_lt (b.isLt.trans_le hw)] at hval
  exact BitVec.eq_of_toNat_eq hval

theorem Tag.bytes_injective {a b : Tag} (h : a.bytes = b.bytes) : a = b := by
  cases a
  cases b
  simpa [Tag.bytes] using h

theorem SigBlock.bytes_injective {a b : SigBlock} (h : a.bytes = b.bytes) : a = b := by
  obtain ⟨linkA, timeA, tagA⟩ := a
  obtain ⟨linkB, timeB, tagB⟩ := b
  obtain ⟨hhead, htag⟩ := List.append_inj h (by simp)
  obtain ⟨hlink, htime⟩ := List.append_inj hhead rfl
  obtain rfl : linkA = linkB := List.singleton_inj.mp hlink
  obtain rfl : timeA = timeB := eq_of_le_toNat_eq (by decide) htime
  obtain rfl : tagA = tagB := Tag.bytes_injective htag
  rfl

theorem SigBlock.elim_bytes_injective {x y : Option SigBlock} (hsome : x.isSome = y.isSome)
    (h : x.elim [] SigBlock.bytes = y.elim [] SigBlock.bytes) : x = y := by
  cases x with
  | none => cases y with
    | none => rfl
    | some b => cases hsome
  | some a => cases y with
    | none => cases hsome
    | some b => rw [SigBlock.bytes_injective h]

theorem FrameV1.length_bytes (fr : FrameV1) : fr.bytes.length = 6 + fr.payload.length + 2 := by
  simp [FrameV1.bytes, headerBytesV1]
  omega

theorem SigBlock.length_bytes (b : SigBlock) : b.bytes.length = 13 := by
  simp [SigBlock.bytes, Tag.bytes]

theorem FrameV2.length_bytes (fr : FrameV2) :
    fr.bytes.length = 10 + fr.payload.length + 2 + if fr.sig.isSome then 13 else 0 := by
  rw [FrameV2.bytes_eq]
  cases fr.sig <;> simp [headerBytesV2, SigBlock.length_bytes] <;> omega

theorem FrameV1.wf_iff {fr : FrameV1} : fr.wf = true ↔ fr.payload.length = fr.len.toNat := by
  rw [FrameV1.wf, decide_eq_true_iff]

theorem FrameV2.wf_iff {fr : FrameV2} :
    fr.wf = true ↔ fr.payload.length = fr.len.toNat ∧ fr.sig.isSome = fr.incompat.getLsbD 0 := by
  rw [FrameV2.wf, Bool.and_eq_true, decide_eq_true_iff, beq_iff_eq]

/-- The bytes of a v1 frame determine its fields (R90). -/
theorem FrameV1.bytes_injective {a b : FrameV1} (ha : a.wf = true) (hb : b.wf = true) (h : a.bytes = b.bytes) :
    a = b := by
  rw [FrameV1.wf_iff] at ha hb
  cases a with | mk len seq sys comp msgid payload crc =>
  cases b with | mk len' seq' sys' comp' msgid' payload' crc' =>
  rw [FrameV1.bytes, FrameV1.bytes, List.append_assoc, List.append_assoc] at h
  obtain ⟨hhead, htail⟩ := List.append_inj h rfl
  simp only [headerBytesV1, List.cons.injEq, true_and, and_true] at hhead
  obtain ⟨rfl, rfl, rfl, rfl, rfl⟩ := hhead
  obtain ⟨hpayload, hcrc⟩ := List.append_inj htail (ha.trans hb.symm)
  obtain rfl : payload = payload' := hpayload
  obtain rfl : crc = crc' := eq_of_le_toNat_eq (by decide) hcrc
  rfl

/-- The bytes of a v2 frame determine its fields, the signature block included (R91, R96). -/
theorem FrameV2.bytes_injective {a b : FrameV2} (ha : a.wf = true) (hb : b.wf = true) (h : a.bytes = b.bytes) :
    a = b := by
  rw [FrameV2.wf_iff] at ha hb
  cases a with | mk len incompat compat seq sys comp msgid payload crc sig =>
  cases b with | mk len' incompat' compat' seq' sys' comp' msgid' payload' crc' sig' =>
  rw [FrameV2.bytes_eq, FrameV2.bytes_eq, List.append_assoc, List.append_assoc, List.append_assoc,
    List.append_assoc] at h
  obtain ⟨hhead, htail⟩ := List.append_inj h (by simp [headerBytesV2])
  obtain ⟨hseven, hid⟩ := List.append_inj hhead rfl
  simp only [List.cons.injEq, true_and, and_true] at hseven
  obtain ⟨rfl, rfl, rfl, rfl, rfl, rfl⟩ := hseven
  obtain ⟨hpayload, hrest⟩ := List.append_inj htail (ha.1.trans hb.1.symm)
  obtain ⟨hcrc, hsig⟩ := List.append_inj hrest (by simp)
  obtain rfl : payload = payload' := hpayload
  obtain rfl : crc = crc' := eq_of_le_toNat_eq (by decide) hcrc
  obtain rfl : msgid = msgid' := eq_of_le_toNat_eq (by decide) hid
  obtain rfl : sig = sig' := SigBlock.elim_bytes_injective (ha.2.trans hb.2.symm) hsig
  rfl

theorem frameBytes_injective {a b : Frame} (ha : frameWf a = true) (hb : frameWf b = true)
    (h : frameBytes a = frameBytes b) : a = b := by
  cases a with
  | v1 x => cases b with
    | v1 y => rw [FrameV1.bytes_injective ha hb h]
    | v2 y => exact absurd (congrArg (fun B => byteAt B 0) h) (by decide : Config.markV1 ≠ Config.markV2)
  | v2 x => cases b with
    | v1 y => exact absurd (congrArg (fun B => byteAt B 0) h) (by decide : Config.markV2 ≠ Config.markV1)
    | v2 y => rw [FrameV2.bytes_injective ha hb h]

/-- The header of a v1 frame declares the frame's own length (R90). -/
theorem totalV1_bytes_append {fr : FrameV1} (hwf : fr.wf = true) (tail : Bytes) :
    totalV1 (fr.bytes ++ tail) = fr.bytes.length := by
  rw [fr.length_bytes, FrameV1.wf_iff.mp hwf]
  rfl

/-- The header of a v2 frame declares the frame's own length (R91, R185). -/
theorem totalV2_bytes_append {fr : FrameV2} (hwf : fr.wf = true) (tail : Bytes) :
    totalV2 (fr.bytes ++ tail) = fr.bytes.length := by
  obtain ⟨hlen, hsig⟩ := FrameV2.wf_iff.mp hwf
  rw [fr.length_bytes, hlen, hsig]
  rfl

/-- The decoder finds every well-formed frame whatever follows it: it finds a frame of the same bytes, and the bytes
determine the frame. -/
theorem decodeFrame_frameBytes_append {fr : Frame} (hwf : frameWf fr = true) (tail : Bytes) :
    decodeFrame (frameBytes fr ++ tail) = .ok (fr, (frameBytes fr).length) := by
  obtain ⟨fr', hdec⟩ : ∃ fr', decodeFrame (frameBytes fr ++ tail) = .ok (fr', (frameBytes fr).length) := by
    have hle : (frameBytes fr).length ≤ (frameBytes fr ++ tail).length := by simp
    cases fr with
    | v1 x => exact ⟨_, decodeFrame_ok_iff.mpr (.inl ⟨rfl, (totalV1_bytes_append hwf tail).symm, hle, rfl⟩)⟩
    | v2 x => exact ⟨_, decodeFrame_ok_iff.mpr (.inr ⟨rfl, (totalV2_bytes_append hwf tail).symm, hle, rfl⟩)⟩
  obtain ⟨hwf', hbytes⟩ := decodeFrame_ok_bytes hdec
  rw [List.take_left' rfl] at hbytes
  rw [hdec, frameBytes_injective hwf' hwf hbytes]

theorem decode_encode_frame {fr : Frame} (hwf : frameWf fr = true) : decode (encode fr.instr) = .ok fr.instr := by
  have hsource : encode fr.instr = .frame (frameBytes fr) := by cases fr <;> rfl
  have hdec := decodeFrame_frameBytes_append hwf []
  rw [List.append_nil] at hdec
  rw [hsource, decode, hdec]

/-! ## The statements -/

/-- Settles O44: format by format, commands by their operands, tokens by their numeral, frames by their bytes. -/
theorem decodeEncode : Obligations.DecodeEncode := by
  intro i hwf
  obtain hcmd | ⟨dir, t, rfl⟩ | ⟨fr, rfl⟩ := i.kind
  · exact decode_encode_command hcmd hwf
  · exact decode_encode_token hwf
  · have hframe : frameWf fr = true := by cases fr <;> exact hwf
    exact decode_encode_frame hframe

/-- Settles O45: the bytes an answered frame is written as, and the frame every written one is read as. -/
theorem frameDecoderTakesExactlyTheFrame : Obligations.FrameDecoderTakesExactlyTheFrame := by
  refine ⟨fun bs fr total h => ?_, fun fr tail hwf => decodeFrame_frameBytes_append hwf tail⟩
  obtain ⟨hwf, hbytes⟩ := decodeFrame_ok_bytes h
  exact ⟨hwf, hbytes, (decodeFrame_total h).2⟩

/-- Settles O46: each word is closed, and the decoder evaluates on it. -/
theorem writtenWordsDecode : Obligations.WrittenWordsDecode :=
  ⟨rfl, rfl, rfl, rfl, rfl, rfl, rfl, rfl⟩

end Sys2Proof
end

section
/-! What a host command does to an idle instance, an equation for each command and each outcome (R81). -/

namespace Sys2Proof.Machine

open Sys2Proof.Safety

variable {s : State}

/-- A response to an idle instance adds to the channel and changes nothing else (R12). -/
theorem State.respond_idle (hidle : s.run = .idle) (r : Response) : s.respond r = { s with rsp := s.rsp ++ [r] } := by
  rw [State.respond, ← hidle]

theorem exec_reset (hidle : s.run = .idle) : exec .reset s = .next (s.resetRegs.respond .done) := by
  change execReset s = _
  rw [execReset, State.command_idle _ hidle]

theorem exec_rdcnt (hidle : s.run = .idle) (hfault : s.fault = none) (k : Counter) :
    exec (.rdcnt k) s = .next (s.respond (.nat (s.counter k))) := by
  change execRdcnt k s = _
  rw [execRdcnt, State.command_idle _ hidle, hfault]

theorem exec_rdcnt_faulted (hidle : s.run = .idle) (hfault : s.fault ≠ none) (k : Counter) :
    exec (.rdcnt k) s = .next (s.respond (.error .eFaulted)) := by
  obtain ⟨f, hf⟩ := Option.ne_none_iff_exists'.mp hfault
  change execRdcnt k s = _
  rw [execRdcnt, State.command_idle _ hidle, hf]

theorem exec_crcInit (hidle : s.run = .idle) : exec .crcInit s = .next ((s.setCrc Config.crcInit).respond .done) := by
  change execCrcInit s = _
  rw [execCrcInit, State.command_idle _ hidle]

theorem exec_crcStep (hidle : s.run = .idle) (d : Byte) :
    exec (.crcStep d) s = .next ((s.setCrc (mix s.crc d)).respond .done) := by
  change execCrcStep d s = _
  rw [execCrcStep, State.command_idle _ hidle]

theorem exec_crcSeed (hidle : s.run = .idle) (seed : Byte) :
    exec (.crcSeed seed) s = .next ((s.setCrc (mix s.crc seed)).respond .done) := by
  change execCrcSeed seed s = _
  rw [execCrcSeed, State.command_idle _ hidle]

theorem exec_crcBuf (hidle : s.run = .idle) (B : Bytes) :
    exec (.crcBuf B) s = .next ((s.setCrc (mixAll s.crc B)).respond .done) := by
  change execCrcBuf B s = _
  rw [execCrcBuf, State.command_idle _ hidle]

theorem exec_crcRd (hidle : s.run = .idle) : exec .crcRd s = .next (s.respond (.word s.crc)) := by
  change execCrcRd s = _
  rw [execCrcRd, State.command_idle _ hidle]

theorem exec_crcFrame (hidle : s.run = .idle) (B : Bytes) (seed : Byte) :
    exec (.crcFrame B seed) s =
      .next ((s.setCrc (mix (mixAll Config.crcInit B) seed)).respond (.word (mix (mixAll Config.crcInit B) seed))) := by
  change execCrcFrame B seed s = _
  rw [execCrcFrame, State.command_idle _ hidle]

theorem exec_fmtTok_ok (hidle : s.run = .idle) {fmt : Bytes} {toks : List Token} (h : tokenize fmt = .ok toks) :
    exec (.fmtTok fmt) s = .next (s.respond (.tokens toks)) := by
  change execFmtTok fmt s = _
  rw [execFmtTok, State.command_idle _ hidle, h]

theorem exec_unpack_ok (hidle : s.run = .idle) {buf fmt : Bytes} {names : List FieldName} {m : Mapping}
    (h : unpack buf fmt names = .ok m) : exec (.unpack buf fmt names) s = .next (s.respond (.mapping m)) := by
  change execUnpack buf fmt names s = _
  rw [execUnpack, State.command_idle _ hidle, h]

theorem exec_unpack_error (hidle : s.run = .idle) {buf fmt : Bytes} {names : List FieldName} {e : UnpackError}
    (h : unpack buf fmt names = .error e) : exec (.unpack buf fmt names) s = .next (s.respond (.error e.error)) := by
  change execUnpack buf fmt names s = _
  rw [execUnpack, State.command_idle _ hidle, h]

theorem exec_pack_ok (hidle : s.run = .idle) {map : Mapping} {fmt buf out : Bytes} {names : List FieldName}
    {off cur : Nat} (h : pack map fmt names buf off = .ok (out, cur)) :
    exec (.pack map fmt names buf off) s = .next (s.respond (.packed out cur)) := by
  change execPack map fmt names buf off s = _
  rw [execPack, State.command_idle _ hidle, h]

theorem exec_pack_error (hidle : s.run = .idle) {map : Mapping} {fmt buf : Bytes} {names : List FieldName}
    {off : Nat} {e : PackError} (h : pack map fmt names buf off = .error e) :
    exec (.pack map fmt names buf off) s = .next (s.respond (.error e.error)) := by
  change execPack map fmt names buf off s = _
  rw [execPack, State.command_idle _ hidle, h]

theorem exec_parse_faulted (hidle : s.run = .idle) (hfault : s.fault ≠ none) (chunk : Bytes) :
    exec (.parse chunk) s = .next (s.respond (.error .eFaulted)) := by
  obtain ⟨f, hf⟩ := Option.ne_none_iff_exists'.mp hfault
  change execParse chunk s = _
  rw [execParse, State.command_idle _ hidle, hf]

theorem exec_encode_ok (hidle : s.run = .idle) {req : EncodeRequest} {G : Bytes}
    (h : encodeFrame s.registry req = .ok G) : exec (.encode req) s = .next (s.respond (.frame G)) := by
  change execEncode req s = _
  rw [execEncode, State.command_idle _ hidle, h]

theorem exec_encode_error (hidle : s.run = .idle) {req : EncodeRequest} {e : ErrorCode}
    (h : encodeFrame s.registry req = .error e) : exec (.encode req) s = .next (s.respond (.error e)) := by
  change execEncode req s = _
  rw [execEncode, State.command_idle _ hidle, h]

theorem exec_buildDefault_ok (hidle : s.run = .idle) {id : MsgId} {m : Mapping}
    (h : buildDefault s.registry id = .ok m) : exec (.buildDefault id) s = .next (s.respond (.skeleton id m)) := by
  change execBuildDefault id s = _
  rw [execBuildDefault, State.command_idle _ hidle, h]

theorem exec_buildDefault_error (hidle : s.run = .idle) {id : MsgId} {e : ErrorCode}
    (h : buildDefault s.registry id = .error e) : exec (.buildDefault id) s = .next (s.respond (.error e)) := by
  change execBuildDefault id s = _
  rw [execBuildDefault, State.command_idle _ hidle, h]

/-- The commands whose one effect is a response made of their operands and the Registry (R60). -/
theorem exec_codec {i : Instr}
    (hi : (∃ fmt, i = .fmtTok fmt) ∨ (∃ buf fmt names, i = .unpack buf fmt names) ∨
      (∃ map fmt names buf off, i = .pack map fmt names buf off) ∨ (∃ req, i = .encode req) ∨
      (∃ id, i = .buildDefault id)) (registry : List Descriptor) :
    ∃ r, ∀ s : State, s.run = .idle → s.registry = registry → exec i s = .next (s.respond r) := by
  obtain ⟨fmt, rfl⟩ | ⟨buf, fmt, names, rfl⟩ | ⟨map, fmt, names, buf, off, rfl⟩ | ⟨req, rfl⟩ | ⟨id, rfl⟩ := hi
  · cases h : tokenize fmt with
    | ok toks => exact ⟨_, fun s hidle _ => exec_fmtTok_ok hidle h⟩
    | error e => exact ⟨_, fun s hidle _ => (exec_fmtTok_error hidle h).trans (by rw [State.respond_idle hidle])⟩
  · cases h : unpack buf fmt names with
    | ok m => exact ⟨_, fun s hidle _ => exec_unpack_ok hidle h⟩
    | error e => exact ⟨_, fun s hidle _ => exec_unpack_error hidle h⟩
  · cases h : pack map fmt names buf off with
    | ok x => exact ⟨_, fun s hidle _ => exec_pack_ok hidle h⟩
    | error e => exact ⟨_, fun s hidle _ => exec_pack_error hidle h⟩
  · cases h : encodeFrame registry req with
    | ok G => exact ⟨_, fun s hidle hr => exec_encode_ok hidle (hr ▸ h)⟩
    | error e => exact ⟨_, fun s hidle hr => exec_encode_error hidle (hr ▸ h)⟩
  · cases h : buildDefault registry id with
    | ok m => exact ⟨_, fun s hidle hr => exec_buildDefault_ok hidle (hr ▸ h)⟩
    | error e => exact ⟨_, fun s hidle hr => exec_buildDefault_error hidle (hr ▸ h)⟩

/-- All a host command can do to an idle instance: answer, write CRC and answer, reset, or run a whole PARSE. -/
theorem exec_command_cases {i : Instr} (hcmd : isCommand i = true) (hidle : s.run = .idle) :
    (∃ r, exec i s = .next (s.respond r)) ∨
    (writesCrc i = true ∧ ∃ c r, exec i s = .next ((s.setCrc c).respond r)) ∨
    (i = .reset ∧ exec i s = .next (s.resetRegs.respond .done)) ∨
    ∃ chunk, i = .parse chunk ∧ s.fault = none ∧ exec i s = .next (parseAll chunk s) := by
  have codec {j : Instr} (hj : (∃ fmt, j = .fmtTok fmt) ∨ (∃ buf fmt names, j = .unpack buf fmt names) ∨
      (∃ map fmt names buf off, j = .pack map fmt names buf off) ∨ (∃ req, j = .encode req) ∨
      (∃ id, j = .buildDefault id)) : ∃ r, exec j s = .next (s.respond r) := by
    obtain ⟨r, hr⟩ := exec_codec hj s.registry
    exact ⟨r, hr s hidle rfl⟩
  cases i with
  | reset => exact .inr (.inr (.inl ⟨rfl, exec_reset hidle⟩))
  | rdcnt k =>
    by_cases hf : s.fault = none
    · exact .inl ⟨_, exec_rdcnt hidle hf k⟩
    · exact .inl ⟨_, exec_rdcnt_faulted hidle hf k⟩
  | crcInit => exact .inr (.inl ⟨rfl, _, _, exec_crcInit hidle⟩)
  | crcStep d => exact .inr (.inl ⟨rfl, _, _, exec_crcStep hidle d⟩)
  | crcSeed seed => exact .inr (.inl ⟨rfl, _, _, exec_crcSeed hidle seed⟩)
  | crcBuf B => exact .inr (.inl ⟨rfl, _, _, exec_crcBuf hidle B⟩)
  | crcRd => exact .inl ⟨_, exec_crcRd hidle⟩
  | crcFrame B seed => exact .inr (.inl ⟨rfl, _, _, exec_crcFrame hidle B seed⟩)
  | fmtTok fmt => exact .inl (codec (.inl ⟨fmt, rfl⟩))
  | unpack buf fmt names => exact .inl (codec (.inr (.inl ⟨buf, fmt, names, rfl⟩)))
  | pack map fmt names buf off => exact .inl (codec (.inr (.inr (.inl ⟨map, fmt, names, buf, off, rfl⟩))))
  | encode req => exact .inl (codec (.inr (.inr (.inr (.inl ⟨req, rfl⟩)))))
  | buildDefault id => exact .inl (codec (.inr (.inr (.inr (.inr ⟨id, rfl⟩)))))
  | parse chunk =>
    by_cases hf : s.fault = none
    · exact .inr (.inr (.inr ⟨chunk, rfl, hf, exec_parse chunk hidle hf⟩))
    · exact .inl ⟨_, exec_parse_faulted hidle hf chunk⟩
  | _ => cases hcmd

theorem run_idle_of_exec_command {i : Instr} (hcmd : isCommand i = true) {t : State} (h : exec i s = .next t) :
    s.run = .idle := by
  obtain ⟨f, hf⟩ := exec_eq_command hcmd
  exact (State.command_next ((hf s).symm.trans h)).1

/-! ## The statements -/

/-- Settles O55: the response is a function of the operands and the Registry. -/
theorem codecCommandsReadNoRegister : Obligations.CodecCommandsReadNoRegister := by
  intro s s' i hidle hidle' hregistry hi
  obtain ⟨r, hr⟩ := exec_codec hi s.registry
  refine ⟨r, ?_, ?_⟩
  · rw [hr s hidle rfl, State.respond_idle hidle]
  · rw [hr s' hidle' hregistry, State.respond_idle hidle']

/-- Settles O1: RESET writes the nine values, which a fresh instance holds. -/
theorem resetRestoresEveryRegister : Obligations.ResetRestoresEveryRegister := by
  refine ⟨fun s hidle => ?_, ⟨rfl, rfl, rfl, rfl, rfl, rfl, rfl, rfl, rfl⟩⟩
  rw [exec_reset hidle, State.respond_idle (by exact hidle)]
  rfl

/-- Settles O2: the selector names the counter, and a fault refuses every selector. -/
theorem rdcntReadsOneCounter : Obligations.RdcntReadsOneCounter := by
  intro s hidle
  refine ⟨fun hfault => ?_, fun hfault k => ?_⟩
  · simp only [exec_rdcnt hidle hfault, State.respond_idle hidle, State.counter, and_self]
  · rw [exec_rdcnt_faulted hidle hfault, State.respond_idle hidle]

end Sys2Proof.Machine
end

section
/-! The mixing step (R171): its form on naturals, its bit-serial form (R172), and what it distinguishes (R181, R182). -/

namespace Sys2Proof.Machine

open Sys2Proof.Safety

/-! ## Three forms of one step -/

/-- The second intermediate byte of R171. -/
def mixByte (t : Byte) : Byte := t ^^^ (t <<< 4)

theorem mix_eq (c : Crc) (d : Byte) :
    mix c d = (c >>> 8) ^^^ ((mixByte (d ^^^ c.setWidth 8)).setWidth 16 <<< 8) ^^^
      ((mixByte (d ^^^ c.setWidth 8)).setWidth 16 <<< 3) ^^^ ((mixByte (d ^^^ c.setWidth 8)).setWidth 16 >>> 4) := rfl

theorem toNat_mixByte (t : Byte) : (mixByte t).toNat = (t.toNat ^^^ (t.toNat <<< 4)) &&& 0xFF := by
  rw [mixByte, BitVec.toNat_xor, BitVec.toNat_shiftLeft, Nat.and_two_pow_sub_one_eq_mod _ 8, Nat.xor_mod_two_pow,
    Nat.mod_eq_of_lt t.isLt]

/-- The step on words is the step on naturals, cut to 8 and 16 bits where R171 cuts it. -/
theorem mix_eq_mixNat (c : Crc) (d : Byte) : mix c d = BitVec.ofNat 16 (mixNat c.toNat d.toNat) := by
  have h1 : (d ^^^ c.setWidth 8).toNat = (d.toNat ^^^ (c.toNat &&& 0xFF)) &&& 0xFF := by
    rw [BitVec.toNat_xor, BitVec.toNat_setWidth, Nat.and_two_pow_sub_one_eq_mod _ 8,
      Nat.and_two_pow_sub_one_eq_mod _ 8, Nat.xor_mod_two_pow, Nat.mod_eq_of_lt d.isLt, Nat.mod_mod]
  have h2 := toNat_mixByte (d ^^^ c.setWidth 8)
  rw [h1] at h2
  set t2 := mixByte (d ^^^ c.setWidth 8) with ht2
  apply BitVec.eq_of_toNat_eq
  have hc := c.isLt
  have hhigh : c.toNat >>> 8 < 2 ^ 16 := by rw [Nat.shiftRight_eq_div_pow]; omega
  have hlow : t2.toNat >>> 4 < 2 ^ 16 := by have := t2.isLt; rw [Nat.shiftRight_eq_div_pow]; omega
  have hwide : t2.toNat % 2 ^ 16 = t2.toNat := Nat.mod_eq_of_lt (by have := t2.isLt; omega)
  rw [mix_eq, ← ht2, mixNat]
  simp only [← h2, BitVec.toNat_xor, BitVec.toNat_ushiftRight, BitVec.toNat_shiftLeft, BitVec.toNat_setWidth,
    BitVec.toNat_ofNat, Nat.and_two_pow_sub_one_eq_mod _ 16, Nat.mod_mod, Nat.xor_mod_two_pow, hwide,
    Nat.mod_eq_of_lt hhigh, Nat.mod_eq_of_lt hlow]

/-- Bit `i` after one pass: the next bit, and the feedback where the polynomial has a term (R172). -/
theorem getLsbD_serialBit (d : Byte) (c : Crc) (k i : Nat) :
    (serialBit d c k).getLsbD i =
      (c.getLsbD (1 + i) ^^ ((c.getLsbD 0 ^^ d.getLsbD k) && (0x8408#16).getLsbD i)) := by
  have hbit : (c ^^^ (d >>> k).setWidth 16).getLsbD 0 = (c.getLsbD 0 ^^ d.getLsbD k) := by
    have hk (h : d.getLsbD k = true) : k < 16 := (BitVec.lt_of_getLsbD h).trans (by decide)
    simpa using hk
  rw [serialBit, hbit]
  cases c.getLsbD 0 ^^ d.getLsbD k <;> simp

/-- Four passes on end: the polynomial's lowest term is bit 3, so the four feedbacks are bits of the accumulator and the
data as they stand. -/
theorem getLsbD_serialBit_four (d : Byte) (c : Crc) (k i : Nat) :
    (serialBit d (serialBit d (serialBit d (serialBit d c k) (1 + k)) (2 + k)) (3 + k)).getLsbD i =
      (c.getLsbD (4 + i) ^^ ((c.getLsbD 0 ^^ d.getLsbD k) && (0x8408#16).getLsbD (3 + i)) ^^
        ((c.getLsbD 1 ^^ d.getLsbD (1 + k)) && (0x8408#16).getLsbD (2 + i)) ^^
        ((c.getLsbD 2 ^^ d.getLsbD (2 + k)) && (0x8408#16).getLsbD (1 + i)) ^^
        ((c.getLsbD 3 ^^ d.getLsbD (3 + k)) && (0x8408#16).getLsbD i)) := by
  have h0 : (0x8408#16).getLsbD 0 = false := rfl
  have h1 : (0x8408#16).getLsbD 1 = false := rfl
  have h2 : (0x8408#16).getLsbD 2 = false := rfl
  simp only [getLsbD_serialBit, ← Nat.add_assoc, Nat.add_zero, Nat.reduceAdd, h0, h1, h2, Bool.and_false,
    Bool.xor_false]

/-- Bit by bit, both sides are one sum of bits of the accumulator and the data. -/
theorem mix_eq_serialMix (c : Crc) (d : Byte) : mix c d = serialMix c d := by
  have hpasses : serialMix c d = serialBit d (serialBit d (serialBit d (serialBit d (serialBit d (serialBit d
    (serialBit d (serialBit d c 0) (1 + 0)) (2 + 0)) (3 + 0)) 4) (1 + 4)) (2 + 4)) (3 + 4) := rfl
  apply BitVec.eq_of_getLsbD_eq
  intro i hi
  rw [hpasses, getLsbD_serialBit_four]
  simp only [getLsbD_serialBit_four]
  interval_cases i <;> simp [mix] <;> grind

/-! ## What the step distinguishes -/

/-- The high byte of the step's result, from which its one lookup byte can be read back. -/
theorem high_mix (c : Crc) (d : Byte) :
    (mix c d >>> 8).setWidth 8 = mixByte (d ^^^ c.setWidth 8) ^^^ (mixByte (d ^^^ c.setWidth 8) >>> 5) := by
  rw [mix_eq]
  generalize mixByte (d ^^^ c.setWidth 8) = t
  apply BitVec.eq_of_getLsbD_eq
  intro i hi
  interval_cases i <;> simp

theorem mixByte_high_injective {x y : Byte} (h : mixByte x ^^^ (mixByte x >>> 5) = mixByte y ^^^ (mixByte y >>> 5)) :
    x = y := by
  have hinv (t : Byte) :
      mixByte ((mixByte t ^^^ (mixByte t >>> 5)) ^^^ ((mixByte t ^^^ (mixByte t >>> 5)) >>> 5)) = t := by
    apply BitVec.eq_of_getLsbD_eq
    intro i hi
    interval_cases i <;> simp [mixByte]
  rw [← hinv x, ← hinv y, h]

/-- The data byte can be read back from a step's result (R182). -/
theorem mix_injective_right {c : Crc} {d d' : Byte} (h : mix c d = mix c d') : d = d' := by
  have hhigh := congrArg (fun x : Crc => (x >>> 8).setWidth 8) h
  simp only [high_mix] at hhigh
  exact (BitVec.xor_left_inj _).mp (mixByte_high_injective hhigh)

/-- The accumulator can be read back from a step's result (R181). -/
theorem mix_injective_left {c c' : Crc} {d : Byte} (h : mix c d = mix c' d) : c = c' := by
  have hhigh := congrArg (fun x : Crc => (x >>> 8).setWidth 8) h
  simp only [high_mix] at hhigh
  have hbyte := mixByte_high_injective hhigh
  have hlow : c.setWidth 8 = c'.setWidth 8 := (BitVec.xor_right_inj _).mp hbyte
  rw [mix_eq, mix_eq, hbyte] at h
  have hup : c >>> 8 = c' >>> 8 :=
    (BitVec.xor_left_inj _).mp ((BitVec.xor_left_inj _).mp ((BitVec.xor_left_inj _).mp h))
  have hmod := congrArg BitVec.toNat hlow
  have hdiv := congrArg BitVec.toNat hup
  simp only [BitVec.toNat_setWidth, BitVec.toNat_ushiftRight, Nat.shiftRight_eq_div_pow] at hmod hdiv
  apply BitVec.eq_of_toNat_eq
  omega

theorem mixAll_append (c : Crc) (A B : Bytes) : mixAll c (A ++ B) = mixAll (mixAll c A) B := List.foldl_append

theorem mixAll_cons (c : Crc) (b : Byte) (B : Bytes) : mixAll c (b :: B) = mixAll (mix c b) B := rfl

theorem mixAll_injective {c c' : Crc} {B : Bytes} (h : mixAll c B = mixAll c' B) : c = c' := by
  induction B generalizing c c' with
  | nil => exact h
  | cons b B ih => exact mix_injective_left (ih h)

/-! ## The statements -/

/-- Settles O7: the two forms agree bit by bit. -/
theorem mixIsTheShiftRegister : Obligations.MixIsTheShiftRegister := mix_eq_serialMix

/-- Settles O8: every step after the changed byte, and the seed step, can be read back. -/
theorem checksumDetectsOneByteAndTheSeed : Obligations.ChecksumDetectsOneByteAndTheSeed := by
  intro s hidle
  refine ⟨fun A B a b seed hne => ⟨_, _, exec_crcFrame hidle _ _, exec_crcFrame hidle _ _, fun h => hne ?_⟩,
    fun A seed seed' hne => ⟨_, _, exec_crcFrame hidle _ _, exec_crcFrame hidle _ _, fun h => hne ?_⟩⟩
  · have hall := mix_injective_left h
    rw [mixAll_append, mixAll_append] at hall
    exact mix_injective_right (mixAll_injective hall)
  · exact mix_injective_right h

/-- Settles O6: each command writes CRC with `mix`, which is the step on naturals. -/
theorem crcCommandsMixIntoCrc : Obligations.CrcCommandsMixIntoCrc := by
  intro s hidle
  refine ⟨fun d => ?_, fun seed => ?_, ?_, fun B b => ⟨mixAll s.crc B, ?_, ?_⟩,
    fun B seed => ⟨mixAll Config.crcInit B, ?_, ?_⟩⟩
  · rw [exec_crcStep hidle, mix_eq_mixNat, State.respond_idle (by exact hidle)]; rfl
  · rw [exec_crcSeed hidle, mix_eq_mixNat, State.respond_idle (by exact hidle)]; rfl
  · rw [exec_crcBuf hidle, State.respond_idle (by exact hidle)]; rfl
  · rw [exec_crcBuf hidle, State.respond_idle (by exact hidle)]; rfl
  · rw [exec_crcBuf hidle, mixAll_append, ← mix_eq_mixNat, State.respond_idle (by exact hidle)]; rfl
  · rw [exec_crcBuf (by exact hidle), State.respond_idle (by exact hidle)]; rfl
  · rw [exec_crcFrame hidle, mix_eq_mixNat, State.respond_idle (by exact hidle)]; rfl

/-- Settles O4: the code, the effect, its idempotence and what is then read. -/
theorem crcInitLoadsFFFF : Obligations.CrcInitLoadsFFFF := by
  refine ⟨fun _ => rfl, fun s hidle => ⟨_, exec_crcInit hidle, ?_, ?_, ?_⟩⟩
  · rw [State.respond_idle (by exact hidle)]; rfl
  · rw [exec_crcInit rfl]; rfl
  · rw [exec_crcRd rfl]; rfl

/-- Settles O5: the code, the response, and the two bytes of a word. -/
theorem crcRdReadsCrc : Obligations.CrcRdReadsCrc := by
  refine ⟨fun _ => rfl, fun s hidle => ?_, fun c => ?_⟩
  · rw [exec_crcRd hidle, State.respond_idle hidle]
  · have hhigh : BitVec.ofNat 8 (c.toNat / 256) = (c >>> 8).setWidth 8 := by
      apply BitVec.eq_of_toNat_eq
      rw [BitVec.toNat_ofNat, BitVec.toNat_setWidth, BitVec.toNat_ushiftRight, Nat.shiftRight_eq_div_pow]
    rw [le, le, le, hhigh, BitVec.ofNat_toNat]

end Sys2Proof.Machine
end

section
/-! What an instruction that has a next state does to the registers, said once for the three kinds: a host command, a
token, a frame. The statements about writers, the fault, the counters and completion follow (R7, R20, R27, R28). -/

namespace Sys2Proof.Machine

open Sys2Proof.Safety

/-! ## What most of the block's operations keep -/

/-- No counter is less (R27). -/
structure CountersLe (s t : State) : Prop where
  trash : s.trash ≤ t.trash
  crcerr : s.crcerr ≤ t.crcerr
  unkmsg : s.unkmsg ≤ t.unkmsg
  parseerr : s.parseerr ≤ t.parseerr
  pkts : s.pkts ≤ t.pkts

theorem CountersLe.refl (s : State) : CountersLe s s := ⟨le_rfl, le_rfl, le_rfl, le_rfl, le_rfl⟩

theorem CountersLe.trans {s t u : State} (h : CountersLe s t) (h' : CountersLe t u) : CountersLe s u :=
  ⟨h.trash.trans h'.trash, h.crcerr.trans h'.crcerr, h.unkmsg.trans h'.unkmsg, h.parseerr.trans h'.parseerr,
    h.pkts.trans h'.pkts⟩

/-- What every operation in the middle of a command keeps: CRC, channel CMD and the Registry (R20, R67). -/
structure KeepsHost (s t : State) : Prop where
  crc : t.crc = s.crc
  cmd : t.cmd = s.cmd
  registry : t.registry = s.registry

theorem KeepsHost.refl (s : State) : KeepsHost s s := ⟨rfl, rfl, rfl⟩

theorem KeepsHost.trans {s t u : State} (h : KeepsHost s t) (h' : KeepsHost t u) : KeepsHost s u :=
  ⟨h'.crc.trans h.crc, h'.cmd.trans h.cmd, h'.registry.trans h.registry⟩

/-- What the operations keep that neither end a PARSE nor take the fault: RESID and FAULT too, and no counter is
less. -/
structure Keeps (s t : State) : Prop extends KeepsHost s t, CountersLe s t where
  resid : t.resid = s.resid
  fault : t.fault = s.fault

theorem keeps_respond (s : State) (r : Response) : Keeps s (s.respond r) :=
  { KeepsHost.refl s, CountersLe.refl s with resid := rfl, fault := rfl }

theorem keeps_setRun (s : State) (r : Run) : Keeps s (s.setRun r) :=
  { KeepsHost.refl s, CountersLe.refl s with resid := rfl, fault := rfl }

theorem keeps_countVerdict (s : State) (v : Verdict) (r : Run) : Keeps s ((s.countVerdict v).setRun r) := by
  cases v with
  | ok => exact { KeepsHost.refl s, CountersLe.refl s with pkts := Nat.le_succ _, resid := rfl, fault := rfl }
  | unknownId => exact { KeepsHost.refl s, CountersLe.refl s with unkmsg := Nat.le_succ _, resid := rfl, fault := rfl }
  | crc => exact { KeepsHost.refl s, CountersLe.refl s with crcerr := Nat.le_succ _, resid := rfl, fault := rfl }
  | decode => exact { KeepsHost.refl s, CountersLe.refl s with parseerr := Nat.le_succ _, resid := rfl, fault := rfl }

theorem keeps_acceptFrame (s : State) (p : ParseRun) (m : Message) : Keeps s (s.acceptFrame p m) :=
  { KeepsHost.refl s, CountersLe.refl s with pkts := Nat.le_succ _, resid := rfl, fault := rfl }

theorem keeps_scanTrash (s : State) (p : ParseRun) : Keeps s (scanTrash p s) :=
  { KeepsHost.refl s, CountersLe.refl s with trash := Nat.le_succ _, resid := rfl, fault := rfl }

/-! ## Tokens and frames -/

theorem keeps_raiseDecode (r : UnpackRun) (s : State) : Keeps s (raiseDecode r s) := by
  unfold raiseDecode
  cases r.caller with
  | host => exact keeps_respond s _
  | frame p hdr sig => exact keeps_countVerdict s .decode _

theorem keeps_finishUnpack (r : UnpackRun) (s : State) : Keeps s (finishUnpack r s) := by
  unfold finishUnpack
  cases r.caller with
  | host => exact keeps_respond s _
  | frame p hdr sig => exact keeps_acceptFrame s p _

theorem keeps_finishPack (r : PackRun) (s : State) : Keeps s (finishPack r s) := by
  unfold finishPack
  cases r.caller <;> exact keeps_respond s _

/-- A token of either direction keeps every register but the counter of the verdict it may raise. -/
theorem keeps_of_exec_token {dir : Dir} {tok : Token} {s t : State} (h : exec (tok.instr dir) s = .next t) :
    Keeps s t := by
  cases dir with
  | unpack =>
    rw [exec_unpack_token] at h
    obtain ⟨r, -, ⟨-, rfl⟩ | ⟨-, rfl⟩⟩ := unpackStep_cases h
    · exact keeps_raiseDecode r s
    · exact keeps_setRun s _
  | pack =>
    rw [exec_pack_token] at h
    obtain ⟨r, -, ⟨-, rfl⟩ | ⟨-, ⟨-, rfl⟩ | ⟨out, -, rfl⟩⟩⟩ := packStep_cases h
    · exact keeps_respond s _
    · exact keeps_respond s _
    · exact keeps_setRun s _

/-- A candidate frame takes the fault or keeps every register but one counter (R226, R229). -/
theorem runCandidate_fault_or_keeps (c : Candidate) (p : ParseRun) (s : State) :
    (∃ d, runCandidate c p s = s.takeFault c.hdr.messageId d) ∨ Keeps s (runCandidate c p s) := by
  obtain ⟨d, h⟩ | ⟨q, -, -, ⟨-, h⟩ | ⟨-, h | h⟩ | ⟨m, -, h⟩⟩ := runCandidate_cases c p s
  · exact .inl ⟨d, h⟩
  all_goals rw [h]; right
  · exact keeps_countVerdict s .unknownId _
  · exact keeps_countVerdict s .crc _
  · exact keeps_countVerdict s .decode _
  · exact { keeps_countVerdict s .ok (.parse q) with }

theorem exec_frame_next {fr : Frame} {s t : State} (h : exec fr.instr s = .next t) :
    ∃ p, s.run = .parse p ∧ t = runCandidate (candidateOf fr) p s := by
  by_cases hr : ∀ p, s.run ≠ .parse p
  · rw [exec_frame, frameStep_elsewhere hr] at h
    cases h
  · obtain ⟨p, hp⟩ := not_forall_not.mp hr
    rw [exec_frame, frameStep_parse hp] at h
    exact ⟨p, hp, (Host.Outcome.next.inj h).symm⟩

/-! ## A PARSE -/

/-- All a micro-step can do to the registers: end the command, take the fault, or keep them. -/
theorem parseMicro_registers (p : ParseRun) (s : State) :
    (∃ resid, (resid = [] ∨ resid = p.rest) ∧ parseMicro p s = endParse resid p s) ∨
    (∃ id d, parseMicro p s = s.takeFault id d) ∨ Keeps s (parseMicro p s) := by
  obtain ⟨resid, hres, h⟩ | ⟨h, -⟩ | ⟨fr, total, -, h⟩ := parseMicro_cases p s
  · exact .inl ⟨resid, hres, h⟩
  · exact .inr (.inr (h ▸ keeps_scanTrash s p))
  · rw [h]
    obtain ⟨d, hf⟩ | hk := runCandidate_fault_or_keeps (candidateOf fr) (p.advance total) s
    · exact .inr (.inl ⟨_, d, hf⟩)
    · exact .inr (.inr hk)

/-- A property every micro-step keeps holds at the end of a PARSE that starts with it. -/
theorem parseLoop_induction {P : State → Prop} (hmicro : ∀ s p, s.run = .parse p → P s → P (parseMicro p s))
    (fuel : Nat) {s : State} (h : P s) : P (parseLoop fuel s) := by
  induction fuel generalizing s with
  | zero => exact h
  | succ fuel ih =>
    cases hr : s.run with
    | parse p => rw [parseLoop_parse fuel hr]; exact ih (hmicro s p hr h)
    | idle => rwa [parseLoop_idle _ hr]
    | unpack r => rw [parseLoop, hr]; exact h
    | pack r => rw [parseLoop, hr]; exact h

theorem keepsHost_parseMicro (p : ParseRun) (s : State) : KeepsHost s (parseMicro p s) := by
  obtain ⟨resid, -, h⟩ | ⟨id, d, h⟩ | h := parseMicro_registers p s
  · rw [h]; exact ⟨rfl, rfl, rfl⟩
  · rw [h]; exact ⟨rfl, rfl, rfl⟩
  · exact h.toKeepsHost

theorem keepsHost_parseAll (chunk : Bytes) (s : State) : KeepsHost s (parseAll chunk s) :=
  parseLoop_induction (P := KeepsHost s) (fun u p _ hu => hu.trans (keepsHost_parseMicro p u)) _
    (keeps_setRun s _).toKeepsHost

/-- A micro-step that ends without a fault began without one, and lowered no counter. -/
theorem parseMicro_faultless {p : ParseRun} {s : State} (h : (parseMicro p s).fault = none) :
    s.fault = none ∧ CountersLe s (parseMicro p s) := by
  obtain ⟨resid, -, hend⟩ | ⟨id, d, hfault⟩ | hk := parseMicro_registers p s
  · rw [hend] at h ⊢; exact ⟨h, le_rfl, le_rfl, le_rfl, le_rfl, le_rfl⟩
  · rw [hfault] at h; cases h
  · exact ⟨hk.fault ▸ h, hk.toCountersLe⟩

theorem parseAll_faultless {chunk : Bytes} {s : State} (h : (parseAll chunk s).fault = none) :
    CountersLe s (parseAll chunk s) :=
  parseLoop_induction (P := fun u => u.fault = none → CountersLe s u)
    (fun _ _ _ hu hf => (hu (parseMicro_faultless hf).1).trans (parseMicro_faultless hf).2) _
    (fun _ => (keeps_setRun s _).toCountersLe) h

/-- A PARSE whose cursor is within `W` ends, by the fuel of one micro-step for each byte left and one more, with one
response (R7, R210). -/
theorem parseLoop_completes {fuel : Nat} {s : State} {p : ParseRun} (hr : s.run = .parse p) (hsc : scanOk p)
    (hfuel : p.w.length - p.sc < fuel) :
    (parseLoop fuel s).run = .idle ∧ ∃ r, (parseLoop fuel s).rsp = s.rsp ++ [r] := by
  induction fuel generalizing s p with
  | zero => exact absurd hfuel (Nat.not_lt_zero _)
  | succ fuel ih =>
    change p.sc ≤ p.w.length at hsc
    rw [parseLoop_parse fuel hr]
    obtain ⟨resid, -, h⟩ | ⟨h, hlt⟩ | ⟨fr, total, hdec, h⟩ := parseMicro_cases p s
    · rw [h, parseLoop_idle fuel rfl]
      exact ⟨rfl, _, rfl⟩
    · rw [h]
      have hsc' : scanOk (p.advance 1) := hlt
      exact ih (s := scanTrash p s) rfl hsc' (by simp only [ParseRun.advance]; omega)
    · obtain ⟨hpos, htotal⟩ := decodeFrame_total hdec
      rw [p.rest_length] at htotal
      rw [h]
      obtain ⟨d, hf⟩ | ⟨q, hw, hq, hrun⟩ := runCandidate_cases (candidateOf fr) (p.advance total) s
      · rw [hf, parseLoop_idle fuel rfl]
        exact ⟨rfl, _, rfl⟩
      · change q.w = p.w at hw
        change q.sc = p.sc + total at hq
        have hsc' : scanOk q := by change q.sc ≤ q.w.length; rw [hq, hw]; omega
        have hrun' : (runCandidate (candidateOf fr) (p.advance total) s).run = .parse q ∧
            (runCandidate (candidateOf fr) (p.advance total) s).rsp = s.rsp := by
          obtain ⟨-, h⟩ | ⟨-, h | h⟩ | ⟨m, -, h⟩ := hrun <;> rw [h] <;> exact ⟨rfl, rfl⟩
        rw [← hrun'.2]
        exact ih hrun'.1 hsc' (by rw [hq, hw]; omega)

theorem parseAll_completes (chunk : Bytes) (s : State) :
    (parseAll chunk s).run = .idle ∧ ∃ r, (parseAll chunk s).rsp = s.rsp ++ [r] :=
  parseLoop_completes (s := s.setRun (.parse (startParse chunk s))) rfl (Nat.zero_le _)
    (by simp only [startParse]; omega)

/-! ## The statements -/

/-- Settles O54: a response ends every command, and a PARSE has fuel for its whole run. -/
theorem everyCommandCompletes : Obligations.EveryCommandCompletes := by
  intro s i hcmd hidle
  obtain ⟨r, h⟩ | ⟨-, c, r, h⟩ | ⟨-, h⟩ | ⟨chunk, -, -, h⟩ := exec_command_cases hcmd hidle
  · exact ⟨_, r, h, rfl, rfl, rfl, rfl⟩
  · exact ⟨_, r, h, rfl, rfl, rfl, rfl⟩
  · exact ⟨_, .done, h, rfl, rfl, rfl, rfl⟩
  · obtain ⟨hrun, r, hrsp⟩ := parseAll_completes chunk s
    have hkeeps := keepsHost_parseAll chunk s
    exact ⟨_, r, h, hrun, hrsp, hkeeps.cmd, hkeeps.registry⟩

/-- Settles O56: kind by kind, and among the commands outcome by outcome. -/
theorem registersHaveTheirWriters : Obligations.RegistersHaveTheirWriters := by
  intro s t i h
  obtain hcmd | ⟨dir, tok, rfl⟩ | ⟨fr, rfl⟩ := i.kind
  · obtain ⟨r, h'⟩ | ⟨hw, c, r, h'⟩ | ⟨rfl, h'⟩ | ⟨chunk, rfl, -, h'⟩ :=
      exec_command_cases hcmd (run_idle_of_exec_command hcmd h)
    all_goals obtain rfl := Host.Outcome.next.inj (h.symm.trans h')
    · exact ⟨rfl, rfl, fun _ => rfl, fun _ _ => ⟨rfl, rfl, rfl, rfl, rfl, rfl, rfl⟩⟩
    · exact ⟨rfl, rfl, fun hno => absurd (hw.symm.trans hno) (by decide),
        fun _ _ => ⟨rfl, rfl, rfl, rfl, rfl, rfl, rfl⟩⟩
    · exact ⟨rfl, rfl, nofun, fun _ => nofun⟩
    · have hkeeps := keepsHost_parseAll chunk s
      exact ⟨hkeeps.registry, hkeeps.cmd, fun _ => hkeeps.crc, fun _ => nofun⟩
  · have hkeeps := keeps_of_exec_token h
    have hcmd : isCommand (tok.instr dir) = false := by cases dir <;> cases tok with | mk n code => cases code <;> rfl
    exact ⟨hkeeps.registry, hkeeps.cmd, fun _ => hkeeps.crc, fun hc => absurd (hcmd.symm.trans hc) (by decide)⟩
  · obtain ⟨p, -, rfl⟩ := exec_frame_next h
    have hkeeps : KeepsHost s (runCandidate (candidateOf fr) p s) := by
      obtain ⟨d, hf⟩ | hk := runCandidate_fault_or_keeps (candidateOf fr) p s
      · rw [hf]; exact ⟨rfl, rfl, rfl⟩
      · exact hk.toKeepsHost
    have hcmd : isCommand fr.instr = false := by cases fr <;> rfl
    exact ⟨hkeeps.registry, hkeeps.cmd, fun _ => hkeeps.crc, fun hc => absurd (hcmd.symm.trans hc) (by decide)⟩

/-- An instruction but RESET that ends without a fault began without one and lowered no counter. -/
theorem exec_faultless {i : Instr} {s t : State} (h : exec i s = .next t) (hi : i ≠ .reset) (ht : t.fault = none) :
    s.fault = none ∧ CountersLe s t := by
  obtain hcmd | ⟨dir, tok, rfl⟩ | ⟨fr, rfl⟩ := i.kind
  · obtain ⟨r, h'⟩ | ⟨hw, c, r, h'⟩ | ⟨hreset, -⟩ | ⟨chunk, rfl, hf, h'⟩ :=
      exec_command_cases hcmd (run_idle_of_exec_command hcmd h)
    · obtain rfl := Host.Outcome.next.inj (h.symm.trans h')
      exact ⟨ht, le_rfl, le_rfl, le_rfl, le_rfl, le_rfl⟩
    · obtain rfl := Host.Outcome.next.inj (h.symm.trans h')
      exact ⟨ht, le_rfl, le_rfl, le_rfl, le_rfl, le_rfl⟩
    · exact absurd hreset hi
    · obtain rfl := Host.Outcome.next.inj (h.symm.trans h')
      exact ⟨hf, parseAll_faultless ht⟩
  · have hkeeps := keeps_of_exec_token h
    exact ⟨hkeeps.fault ▸ ht, hkeeps.toCountersLe⟩
  · obtain ⟨p, -, rfl⟩ := exec_frame_next h
    obtain ⟨d, hf⟩ | hk := runCandidate_fault_or_keeps (candidateOf fr) p s
    · rw [hf] at ht; cases ht
    · exact ⟨hk.fault ▸ ht, hk.toCountersLe⟩

/-- Settles O57: PARSE is refused, and what ends without a fault began without one. -/
theorem theFaultIsSticky : Obligations.TheFaultIsSticky := by
  refine ⟨fun s chunk hidle hf => ?_, fun s t i hf h hi ht => hf (exec_faultless h hi ht).1⟩
  rw [exec_parse_faulted hidle hf, State.respond_idle hidle]

/-- Settles O58: what ends without a fault lowered no counter. -/
theorem countersOnlyGrow : Obligations.CountersOnlyGrow := by
  intro s t i h hi ht
  obtain ⟨-, hle⟩ := exec_faultless h hi ht
  exact ⟨hle.trash, hle.crcerr, hle.unkmsg, hle.parseerr, hle.pkts⟩

end Sys2Proof.Machine
end

section
/-! One step of the block: what it runs (R7, R36, R81, R203), and what every step keeps of RESID and the cursors
(R20, R21, R35, R209). -/

namespace Sys2Proof.Machine

open Sys2Proof.Safety

/-! ## Between commands -/

/-- The command decoder answers host commands only (R81). -/
theorem isCommand_of_decodeCommand {c : Command} {i : Instr} (h : decodeCommand c = .ok i) : isCommand i = true := by
  unfold decodeCommand at h
  split at h
  case h_2 => split at h <;> cases h; rfl
  case h_11 => split at h <;> cases h; rfl
  case h_13 => split at h <;> cases h; rfl
  all_goals cases h <;> rfl

theorem step_badCommand {s : State} {c : Command} {rest : List Command} {e : CommandReject} (hidle : s.run = .idle)
    (hcmd : s.cmd = c :: rest) (hdec : decodeCommand c = .error e) (he : e ≠ .operandNotMapping) :
    step s = .next (s.popCmd.respond (.error .eBadCmd)) := by
  rw [step, hidle]
  cases e with
  | badCode code => simp only [stepIdle, hcmd, hdec]
  | badSelector k => simp only [stepIdle, hcmd, hdec]
  | operandNotMapping => exact absurd rfl he

theorem step_operandNotMapping {s : State} {c : Command} {rest : List Command} (hidle : s.run = .idle)
    (hcmd : s.cmd = c :: rest) (hdec : decodeCommand c = .error .operandNotMapping) :
    step s = .refused .operandNotMapping := by
  rw [step, hidle]
  simp only [stepIdle, hcmd, hdec]

theorem step_idle_nil {s : State} (hidle : s.run = .idle) (hcmd : s.cmd = []) : step s = .next s := by
  rw [step, hidle]
  simp only [stepIdle, hcmd]

/-! ## In the middle of a command -/

theorem step_unpack_token {s : State} {r : UnpackRun} {t : Token} (hr : s.run = .unpack r)
    (ht : r.toks[r.ti]? = some t) : step s = exec (t.instr .unpack) s := by
  rw [step, hr]
  simp only [stepUnpack, ht]

theorem step_unpack_end {s : State} {r : UnpackRun} (hr : s.run = .unpack r) (ht : r.toks[r.ti]? = none) :
    step s = .next (finishUnpack r s) := by
  rw [step, hr]
  simp only [stepUnpack, ht]

theorem step_pack_token {s : State} {r : PackRun} {t : Token} (hr : s.run = .pack r)
    (ht : r.toks[r.ti]? = some t) : step s = exec (t.instr .pack) s := by
  rw [step, hr]
  simp only [stepPack, ht]

theorem step_pack_end {s : State} {r : PackRun} (hr : s.run = .pack r) (ht : r.toks[r.ti]? = none) :
    step s = .next (finishPack r s) := by
  rw [step, hr]
  simp only [stepPack, ht]

/-- All a step that has a next state can be. -/
theorem step_cases {s t : State} (h : step s = .next t) :
    (s.run = .idle ∧ (t = s ∨ t = s.popCmd.respond (.error .eBadCmd) ∨
      ∃ i, isCommand i = true ∧ exec i s.popCmd = .next t)) ∨
    (∃ r, s.run = .unpack r ∧ ((r.toks[r.ti]? = none ∧ t = finishUnpack r s) ∨
      ∃ tok, r.toks[r.ti]? = some tok ∧ exec (tok.instr .unpack) s = .next t)) ∨
    (∃ r, s.run = .pack r ∧ ((r.toks[r.ti]? = none ∧ t = finishPack r s) ∨
      ∃ tok, r.toks[r.ti]? = some tok ∧ exec (tok.instr .pack) s = .next t)) ∨
    ∃ p, s.run = .parse p ∧ t = parseMicro p s := by
  cases hr : s.run with
  | idle =>
    refine .inl ⟨rfl, ?_⟩
    cases hcmd : s.cmd with
    | nil =>
      rw [step_idle_nil hr hcmd] at h
      exact .inl (Host.Outcome.next.inj h).symm
    | cons c rest =>
      match hdec : decodeCommand c with
      | .ok i =>
        rw [step_command hr hcmd hdec] at h
        exact .inr (.inr ⟨i, isCommand_of_decodeCommand hdec, h⟩)
      | .error e =>
        by_cases he : e = .operandNotMapping
        · rw [step_operandNotMapping hr hcmd (he ▸ hdec)] at h
          cases h
        · rw [step_badCommand hr hcmd hdec he] at h
          exact .inr (.inl (Host.Outcome.next.inj h).symm)
  | unpack r =>
    refine .inr (.inl ⟨r, rfl, ?_⟩)
    cases ht : r.toks[r.ti]? with
    | none =>
      rw [step_unpack_end hr ht] at h
      exact .inl ⟨rfl, (Host.Outcome.next.inj h).symm⟩
    | some tok => exact .inr ⟨tok, rfl, (step_unpack_token hr ht).symm.trans h⟩
  | pack r =>
    refine .inr (.inr (.inl ⟨r, rfl, ?_⟩))
    cases ht : r.toks[r.ti]? with
    | none =>
      rw [step_pack_end hr ht] at h
      exact .inl ⟨rfl, (Host.Outcome.next.inj h).symm⟩
    | some tok => exact .inr ⟨tok, rfl, (step_pack_token hr ht).symm.trans h⟩
  | parse p =>
    rw [step_parse hr] at h
    exact .inr (.inr (.inr ⟨p, rfl, (Host.Outcome.next.inj h).symm⟩))

/-! ## The residual -/

theorem decodeFrame_markV1_short {bs : Bytes} (hm : byteAt bs 0 = Config.markV1) (hlt : bs.length < Config.hlV1) :
    decodeFrame bs = .error .headerWait := by
  cases bs with
  | nil => cases hm
  | cons m rest =>
    change m = _ at hm
    simp only [decodeFrame, if_pos hm, if_pos hlt]

theorem decodeFrame_markV2_short {bs : Bytes} (hm : byteAt bs 0 = Config.markV2) (hlt : bs.length < Config.hlV2) :
    decodeFrame bs = .error .headerWait := by
  have hne : Config.markV2 ≠ Config.markV1 := by decide
  cases bs with
  | nil => cases hm
  | cons m rest =>
    change m = _ at hm
    subst hm
    simp only [decodeFrame, if_neg hne, if_pos, if_pos hlt]

/-- What a wait leaves is a wait: a marker, and fewer bytes than the header or than the length it declares. -/
theorem residOk_of_wait {bs : Bytes} (h : decodeFrame bs = .error .headerWait ∨ decodeFrame bs = .error .frameWait) :
    residOk bs := by
  by_cases hm1 : byteAt bs 0 = Config.markV1
  · refine .inr (.inl ⟨hm1, ?_⟩)
    by_contra hno
    obtain ⟨hheader, htotal⟩ := not_or.mp hno
    rw [decodeFrame_markV1 hm1 (Nat.not_lt.mp hheader), if_neg htotal] at h
    obtain h | h := h <;> cases h
  · by_cases hm2 : byteAt bs 0 = Config.markV2
    · refine .inr (.inr ⟨hm2, ?_⟩)
      by_contra hno
      obtain ⟨hheader, htotal⟩ := not_or.mp hno
      rw [decodeFrame_markV2 hm2 (Nat.not_lt.mp hheader), if_neg htotal] at h
      obtain h | h := h <;> cases h
    · by_cases hne : bs = []
      · exact .inl hne
      · rw [decodeFrame_notMarker hne hm1 hm2] at h
        obtain h | h := h <;> cases h

/-- A wait is shorter than the longest frame (R20, R209). -/
theorem length_le_of_residOk {r : Bytes} (h : residOk r) : r.length ≤ Config.residMax := by
  have hlen := (byteAt r 1).isLt
  obtain rfl | ⟨-, h | h⟩ | ⟨-, h | h⟩ := h
  · exact Nat.zero_le _
  · exact h.le.trans (by decide)
  · simp only [totalV1, Config.hlV1, Config.crcLen] at h
    simp only [Config.residMax]
    omega
  · exact h.le.trans (by decide)
  · simp only [totalV2, Config.hlV2, Config.crcLen, Config.sigLen] at h
    simp only [Config.residMax]
    split at h <;> omega

theorem inv_of_residOk {s : State} (h : residOk s.resid) : Inv s := ⟨length_le_of_residOk h, fun _ => h⟩

theorem inv_takeFault (id : MsgId) (cause : ErrorCode) (s : State) : Inv (s.takeFault id cause) :=
  ⟨by rw [State.takeFault_resid, List.length_take]; exact Nat.min_le_left _ _, nofun⟩

theorem Keeps.inv {s t : State} (h : Keeps s t) (hinv : Inv s) : Inv t := by
  unfold Safety.Inv at hinv ⊢
  rwa [h.resid, h.fault]

/-- Every micro-step keeps the invariant; one that ends the command establishes it by what it leaves in RESID. -/
theorem inv_parseMicro {p : ParseRun} {s : State} (hinv : Inv s) : Inv (parseMicro p s) := by
  unfold parseMicro parseAction
  cases hd : decodeFrame p.rest with
  | ok x =>
    change Inv (runCandidate (candidateOf x.1) (p.advance x.2) s)
    obtain ⟨d, hf⟩ | hk := runCandidate_fault_or_keeps (candidateOf x.1) (p.advance x.2) s
    · rw [hf]; exact inv_takeFault _ _ _
    · exact hk.inv hinv
  | error e =>
    cases e with
    | empty => exact inv_of_residOk (.inl rfl)
    | notMarker => exact (keeps_scanTrash s p).inv hinv
    | headerWait => exact inv_of_residOk (residOk_of_wait (.inl hd))
    | frameWait => exact inv_of_residOk (residOk_of_wait (.inr hd))

theorem inv_exec_command {i : Instr} {s t : State} (hcmd : isCommand i = true) (h : exec i s = .next t)
    (hinv : Inv s) : Inv t := by
  obtain ⟨r, h'⟩ | ⟨-, c, r, h'⟩ | ⟨-, h'⟩ | ⟨chunk, -, -, h'⟩ :=
    exec_command_cases hcmd (run_idle_of_exec_command hcmd h)
  all_goals obtain rfl := Host.Outcome.next.inj (h.symm.trans h')
  · exact hinv
  · exact hinv
  · exact inv_of_residOk (.inl rfl)
  · exact parseLoop_induction (fun _ _ _ => inv_parseMicro) _ hinv

/-- Settles O51: a command's outcomes, a token, the end of a program and a micro-step each keep the invariant. -/
theorem stepKeepsTheResidualInvariant : Obligations.StepKeepsTheResidualInvariant := by
  intro s t hinv h
  obtain ⟨-, rfl | rfl | ⟨i, hcmd, h⟩⟩ | ⟨r, -, ⟨-, rfl⟩ | ⟨tok, -, h⟩⟩ | ⟨r, -, ⟨-, rfl⟩ | ⟨tok, -, h⟩⟩ |
    ⟨p, -, rfl⟩ := step_cases h
  · exact hinv
  · exact hinv
  · exact inv_exec_command (s := s.popCmd) hcmd h hinv
  · exact (keeps_finishUnpack r s).inv hinv
  · exact (keeps_of_exec_token h).inv hinv
  · exact (keeps_finishPack r s).inv hinv
  · exact (keeps_of_exec_token h).inv hinv
  · exact inv_parseMicro hinv

/-! ## The cursors -/

theorem lt_length_of_getElem?_eq_some {α : Type} {L : List α} {k : Nat} {a : α} (h : L[k]? = some a) : k < L.length :=
  (List.getElem?_eq_some_iff.mp h).1

theorem cursorsOk_unpack_token {s t : State} {r : UnpackRun} {tok : Token} (hr : s.run = .unpack r)
    (ht : r.toks[r.ti]? = some tok) (hok : cursorsOk (.unpack r)) (h : exec (tok.instr .unpack) s = .next t) :
    cursorsOk t.run := by
  obtain ⟨-, -, hcaller⟩ := hok
  have hti := lt_length_of_getElem?_eq_some ht
  rw [exec_unpack_token] at h
  obtain ⟨r', hr', ⟨-, rfl⟩ | ⟨hfits, rfl⟩⟩ := unpackStep_cases h
  all_goals obtain rfl := Run.unpack.inj (hr.symm.trans hr')
  · unfold raiseDecode
    cases hc : r.caller with
    | host => trivial
    | frame p hdr sig => rw [hc] at hcaller; exact hcaller
  · exact ⟨hti, hfits, hcaller⟩

theorem cursorsOk_finishUnpack {s : State} {r : UnpackRun} (hok : cursorsOk (.unpack r)) :
    cursorsOk (finishUnpack r s).run := by
  obtain ⟨-, -, hcaller⟩ := hok
  unfold finishUnpack
  cases hc : r.caller with
  | host => trivial
  | frame p hdr sig => rw [hc] at hcaller; exact hcaller

/-- A field's bytes stay in the buffer, value or no value (R151, spec/42_pack.md section 3). -/
theorem packField_writesWithin {code : TypeCode} {out out' : Bytes} {a cnt : Nat} {v : Option Value}
    (h : a + cnt * code.width ≤ out.length) (hw : packField (microP code) out a cnt v = some out') :
    WritesWithin out out' a (cnt * code.width) := by
  cases v with
  | none => cases hw; exact .refl _ _ _
  | some v => exact microP_writesWithin h hw

theorem cursorsOk_pack_token {s t : State} {r : PackRun} {tok : Token} (hr : s.run = .pack r)
    (ht : r.toks[r.ti]? = some tok) (h : exec (tok.instr .pack) s = .next t) : cursorsOk t.run := by
  have hti := lt_length_of_getElem?_eq_some ht
  rw [exec_pack_token] at h
  obtain ⟨r', hr', ⟨-, rfl⟩ | ⟨hfits, ⟨-, rfl⟩ | ⟨out, hout, rfl⟩⟩⟩ := packStep_cases h
  all_goals obtain rfl := Run.pack.inj (hr.symm.trans hr')
  · trivial
  · trivial
  · exact ⟨hti, .inr (hfits.trans (packField_writesWithin hfits hout).1.ge)⟩

theorem cursorsOk_parseMicro {s : State} {p : ParseRun} (hok : scanOk p) : cursorsOk (parseMicro p s).run := by
  obtain ⟨resid, -, h⟩ | ⟨h, hlt⟩ | ⟨fr, total, hdec, h⟩ := parseMicro_cases p s
  · rw [h]; trivial
  · rw [h]; exact hlt
  · change p.sc ≤ p.w.length at hok
    have htotal := (decodeFrame_total hdec).2
    rw [p.rest_length] at htotal
    rw [h]
    obtain ⟨d, hf⟩ | ⟨q, hw, hq, hrun⟩ := runCandidate_cases (candidateOf fr) (p.advance total) s
    · rw [hf]; trivial
    · change q.w = p.w at hw
      change q.sc = p.sc + total at hq
      have hscan : scanOk q := by change q.sc ≤ q.w.length; rw [hq, hw]; omega
      obtain ⟨-, h⟩ | ⟨-, h | h⟩ | ⟨m, -, h⟩ := hrun <;> rw [h] <;> exact hscan

/-- Settles O53: a command leaves nothing running, a token moves `TI` to a token's end and `CUR` as far as its field, and
a micro-step moves `SC` as far as there are bytes. -/
theorem stepKeepsTheCursorsInBounds : Obligations.StepKeepsTheCursorsInBounds := by
  intro s t hok h
  obtain ⟨hidle, rfl | rfl | ⟨i, hcmd, h⟩⟩ | ⟨r, hr, ⟨-, rfl⟩ | ⟨tok, ht, h⟩⟩ | ⟨r, hr, ⟨-, rfl⟩ | ⟨tok, ht, h⟩⟩ |
    ⟨p, hr, rfl⟩ := step_cases h
  · exact hok
  · trivial
  · obtain ⟨t', r, ht', hrun, -⟩ := everyCommandCompletes s.popCmd i hcmd hidle
    obtain rfl := Host.Outcome.next.inj (h.symm.trans ht')
    rw [hrun]
    trivial
  · rw [hr] at hok; exact cursorsOk_finishUnpack hok
  · rw [hr] at hok; exact cursorsOk_unpack_token hr ht hok h
  · unfold finishPack; cases r.caller <;> trivial
  · exact cursorsOk_pack_token hr ht h
  · rw [hr] at hok; exact cursorsOk_parseMicro hok

/-! ## The statements about one step -/

/-- Settles O52: every register of the reset state is closed but the Registry, which no bound reads. -/
theorem resetMeetsTheInvariants : Obligations.ResetMeetsTheInvariants :=
  ⟨inv_of_residOk (.inl rfl), trivial, rfl⟩

/-- Settles O48: each fetch position has its equation. -/
theorem stepRunsTheDecodedInstruction : Obligations.StepRunsTheDecodedInstruction := by
  refine ⟨fun s c rest i hidle hcmd hdec => ?_, fun s hidle hcmd => step_idle_nil hidle hcmd,
    fun s r t hr ht => step_unpack_token hr ht, fun s r t hr ht => step_pack_token hr ht,
    fun s p fr total hr hdec => step_parse_frame hr hdec⟩
  have hcommand : decodeCommand c = .ok i := by
    rw [decode] at hdec
    cases hc : decodeCommand c with
    | ok j => rw [hc] at hdec; exact congrArg _ (Except.ok.inj hdec)
    | error e => rw [hc] at hdec; cases hdec
  rw [step_command hidle hcmd hcommand, State.popCmd, hcmd]
  rfl

/-- Settles O47: the decoder rejects the code or the selector by name. -/
theorem illegalCommandGetsBadCmd : Obligations.IllegalCommandGetsBadCmd := by
  intro s c rest hidle hcmd hbad
  obtain ⟨e, hdec, he⟩ : ∃ e, decodeCommand c = .error e ∧ e ≠ .operandNotMapping := by
    obtain hcode | ⟨hcode, hk⟩ := hbad
    · refine ⟨.badCode c.code, ?_, nofun⟩
      simp only [List.mem_cons, List.not_mem_nil, or_false, not_or] at hcode
      unfold decodeCommand
      split
      case h_15 => rfl
      all_goals omega
    · refine ⟨.badSelector c.ops.k, ?_, nofun⟩
      have hsel : counterOf c.ops.k = none := by
        unfold counterOf
        split
        case h_6 => rfl
        all_goals omega
      unfold decodeCommand
      rw [hcode]
      simp only [hsel]
      rfl
  rw [step_badCommand hidle hcmd hdec he, State.respond_idle (by exact hidle), State.popCmd, hcmd]
  rfl

/-- Settles O60: each is one shared step, which has no next state elsewhere. -/
theorem tokensAndFramesNeedTheirCommand : Obligations.TokensAndFramesNeedTheirCommand := by
  refine ⟨fun s t h => ?_, fun s t h => ?_, fun s fr h => ?_⟩
  · rw [exec_unpack_token, unpackStep_elsewhere h]
  · rw [exec_pack_token, packStep_elsewhere h]
  · rw [exec_frame, frameStep_elsewhere h]

/-- Settles O33: at either marker the header is not there in full, so the decoder waits. -/
theorem headerWaitKeepsTheTail : Obligations.HeaderWaitKeepsTheTail := by
  intro s p hr hsc hmark
  have hwait : decodeFrame p.rest = .error .headerWait := by
    obtain ⟨hm, hlt⟩ | ⟨hm, hlt⟩ := hmark
    · exact decodeFrame_markV1_short (by rwa [p.byteAt_rest]) (by rw [p.rest_length, Config.hlV1]; omega)
    · exact decodeFrame_markV2_short (by rwa [p.byteAt_rest]) (by rw [p.rest_length, Config.hlV2]; omega)
  rw [step_parse hr, parseMicro, parseAction, hwait]
  rfl

end Sys2Proof.Machine
end

section
/-! The tokenizer on the strings of the grammar, and on a zero count (R82, R84, R102, R111, R121, R125). -/

namespace Sys2Proof.Machine

open Sys2Proof.Safety

variable {n : Option Nat} {rest : Bytes} {toks : List Token}

/-- A run of digits after a count `m` is the numeral that goes on from `m` (R84). -/
theorem tokenizeFrom_digits {ds : List Nat} (hd : ∀ d ∈ ds, d < 10) (m : Nat) (rest : Bytes) :
    tokenizeFrom (some m) (ds.map digitChar ++ rest) =
      tokenizeFrom (some (ds.foldl (fun n d => 10 * n + d) m)) rest := by
  induction ds generalizing m with
  | nil => rfl
  | cons d ds ih =>
    rw [List.map_cons, List.cons_append, tokenizeFrom_digit (hd d List.mem_cons_self),
      ih fun e he => hd e (List.mem_cons_of_mem d he)]
    rfl

theorem tokenizeFrom_piece {p : List Nat × TypeCode} (hd : ∀ d ∈ p.1, d ≤ 9) (hcount : 1 ≤ countOf p.1)
    (hrest : tokenizeFrom none rest = .ok toks) :
    tokenizeFrom none (pieceChars p ++ rest) = .ok (pieceToken p :: toks) := by
  obtain ⟨ds, code⟩ := p
  have hchars : pieceChars (ds, code) ++ rest = ds.map digitChar ++ code.char :: rest := List.append_assoc _ _ _
  rw [hchars]
  cases ds with
  | nil => exact tokenizeFrom_code (n := none) nofun code hrest
  | cons d ds =>
    have hlt (e : Nat) (he : e ∈ d :: ds) : e < 10 := Nat.lt_succ_of_le (hd e he)
    have hvalue : countOf (d :: ds) = ds.foldl (fun n d => 10 * n + d) d := by simp [countOf]
    have hne : some (countOf (d :: ds)) ≠ some 0 := by simpa using Nat.one_le_iff_ne_zero.mp hcount
    rw [List.map_cons, List.cons_append, tokenizeFrom_digit (hlt d List.mem_cons_self), Option.getD_none, Nat.mul_zero,
      Nat.zero_add, tokenizeFrom_digits fun e he => hlt e (List.mem_cons_of_mem d he), ← hvalue,
      tokenizeFrom_code hne code hrest]
    rfl

/-- After a string that tokenizes, the rest decides whether and why the whole does not. -/
theorem tokenizeFrom_append_of_ok {before : Bytes} {e : FormatError} (hbefore : tokenizeFrom n before = .ok toks)
    (hrest : tokenizeFrom none rest = .error e) : tokenizeFrom n (before ++ rest) = .error e := by
  induction before generalizing n toks with
  | nil =>
    cases n with
    | none => exact hrest
    | some m => cases hbefore
  | cons c cs ih =>
    rw [List.cons_append]
    match hstep : charStep n c with
    | .error ec =>
      rw [tokenizeFrom_cons_of_error hstep] at hbefore
      cases hbefore
    | .ok (.digit m) =>
      rw [tokenizeFrom_cons_of_digit hstep] at hbefore ⊢
      exact ih hbefore
    | .ok (.token t) =>
      rw [tokenizeFrom_cons_of_token hstep]
      rw [tokenizeFrom, hstep] at hbefore
      cases hcs : tokenizeFrom none cs with
      | ok ts => exact ih hcs
      | error ec => rw [hcs] at hbefore; cases hbefore

/-- A run of zeros before a type code is a zero count (R125). -/
theorem tokenizeFrom_zeros_code (m : Nat) (code : TypeCode) (after : Bytes) :
    tokenizeFrom (some 0) (List.replicate m 0x30#8 ++ code.char :: after) = .error .zeroCount := by
  induction m with
  | zero => exact tokenizeFrom_cons_of_error (charStep_zeroCount code)
  | succ m ih =>
    have hzero : (0x30#8 : Byte) = digitChar 0 := rfl
    rw [List.replicate_succ, List.cons_append, hzero, tokenizeFrom_digit (by decide), ← hzero]
    exact ih

/-- Settles O9: piece by piece from the end of the string. -/
theorem fmtTokReadsEveryProgram : Obligations.FmtTokReadsEveryProgram := by
  intro s ps hidle hps
  have htok : tokenize (ps.flatMap pieceChars) = .ok (ps.map pieceToken) := by
    induction ps with
    | nil => rfl
    | cons p ps ih =>
      obtain ⟨hd, hcount⟩ := hps p List.mem_cons_self
      exact tokenizeFrom_piece hd hcount (ih fun q hq => hps q (List.mem_cons_of_mem p hq))
  rw [exec_fmtTok_ok hidle htok, State.respond_idle hidle]

/-- Settles O12: the zeros and the code fail after any string that tokenizes. -/
theorem zeroCountIsFormatError : Obligations.ZeroCountIsFormatError := by
  intro s before after toks m code hidle hbefore
  have hzeros : tokenizeFrom none (List.replicate (m + 1) 0x30#8 ++ code.char :: after) = .error .zeroCount := by
    have hzero : (0x30#8 : Byte) = digitChar 0 := rfl
    rw [List.replicate_succ, List.cons_append, hzero, tokenizeFrom_digit (by decide), ← hzero]
    exact tokenizeFrom_zeros_code m code after
  have hall : tokenize (before ++ List.replicate (m + 1) 0x30#8 ++ code.char :: after) = .error .zeroCount := by
    rw [List.append_assoc]
    exact tokenizeFrom_append_of_ok hbefore hzeros
  exact ⟨exec_fmtTok_error hidle hall, hall⟩

end Sys2Proof.Machine
end

section
/-! The tokens of a running program, both directions: where a field is read or written, where a value is refused, where
a field passes the end (R136, R151 to R155), and what the end of the program gives (R36). -/

namespace Sys2Proof.Machine

open Sys2Proof.Safety

/-! ## The bytes of an accepted value -/

theorem unsignedBytes_of_range {w : Nat} {z : Int} (h0 : 0 ≤ z) (h : z < 2 ^ (8 * w)) :
    unsignedBytes w z = some (le w (z % 2 ^ (8 * w)).toNat) := by
  rw [unsignedBytes, if_pos ⟨h0, h⟩, Int.emod_eq_of_lt h0 h]

theorem unsignedBytes_refused {w : Nat} {z : Int} (h : ¬ (0 ≤ z ∧ z < 2 ^ (8 * w))) : unsignedBytes w z = none :=
  if_neg h

theorem signedBytes_of_range {w : Nat} {z : Int} (h : -(2 ^ (8 * w - 1)) ≤ z ∧ z < 2 ^ (8 * w - 1)) :
    signedBytes w z = some (le w (z % 2 ^ (8 * w)).toNat) := if_pos h

theorem signedBytes_refused {w : Nat} {z : Int} (h : ¬ (-(2 ^ (8 * w - 1)) ≤ z ∧ z < 2 ^ (8 * w - 1))) :
    signedBytes w z = none := if_neg h

/-- A scalar in the range of its code is written as R153 says. -/
theorem scalarBytes_accepted {code : TypeCode} {x : Scalar} (h : scalarAccepted code x) :
    scalarBytes code x = some (wireBytes code x) := by
  cases x with
  | f32 u => cases h; rfl
  | f64 u => cases h; rfl
  | char b => cases h; rfl
  | int z =>
    change intInRange code z at h
    cases code with
    | f | d | c => exact absurd h id
    | B | H | I | Q => exact unsignedBytes_of_range h.1 (by have := h.2; norm_num; omega)
    | b | h | i | q => exact signedBytes_of_range (by obtain ⟨h1, h2⟩ := h; norm_num; omega)

/-- A scalar of another kind or out of range is refused (R152). -/
theorem scalarBytes_refused {code : TypeCode} {x : Scalar} (h : ¬ scalarAccepted code x) :
    scalarBytes code x = none := by
  cases x with
  | f32 u => cases code with
    | f => exact absurd rfl h
    | _ => rfl
  | f64 u => cases code with
    | d => exact absurd rfl h
    | _ => rfl
  | char b => cases code with
    | c => exact absurd rfl h
    | _ => rfl
  | int z =>
    change ¬ intInRange code z at h
    cases code with
    | f | d | c => rfl
    | B | H | I | Q => exact unsignedBytes_refused fun hin => h (by norm_num at hin ⊢; omega)
    | b | h | i | q => exact signedBytes_refused fun hin => h (by norm_num at hin ⊢; omega)

/-! ## The bytes a microcodelet writes -/

theorem memWrite_nil (buf : Bytes) (a : Nat) : memWrite buf a [] = buf := by
  rw [memWrite, List.append_nil, List.length_nil, Nat.add_zero, List.take_append_drop]

theorem wr_accepted {out : Bytes} {a : Nat} {code : TypeCode} {x : Scalar} (h : scalarAccepted code x) :
    wr out a code x = some (memWrite out a (wireBytes code x)) := by
  rw [wr, scalarBytes_accepted h]

theorem wr_refused {out : Bytes} {a : Nat} {code : TypeCode} {x : Scalar} (h : ¬ scalarAccepted code x) :
    wr out a code x = none := by
  rw [wr, scalarBytes_refused h]

theorem wireBytes_length {code : TypeCode} {x : Scalar} (h : scalarAccepted code x) :
    (wireBytes code x).length = code.width :=
  scalarBytes_length (scalarBytes_accepted h)

theorem flatMap_wireBytes_length {code : TypeCode} {L : List Scalar} (h : ∀ x ∈ L, scalarAccepted code x) :
    (L.flatMap (wireBytes code)).length = L.length * code.width := by
  induction L with
  | nil => simp
  | cons x L ih =>
    rw [List.flatMap_cons, List.length_append, wireBytes_length (h x List.mem_cons_self),
      ih fun y hy => h y (List.mem_cons_of_mem x hy), List.length_cons, Nat.succ_mul, Nat.add_comm]

/-- Element after element, an array is written as one run of bytes (R154). -/
theorem wrArray_accepted {out : Bytes} {a : Nat} {code : TypeCode} {L : List Scalar}
    (h : ∀ x ∈ L, scalarAccepted code x) (hfits : a + L.length * code.width ≤ out.length) :
    wrArray out a code L = some (memWrite out a (L.flatMap (wireBytes code))) := by
  induction L generalizing out a with
  | nil => rw [wrArray, List.flatMap_nil, memWrite_nil]
  | cons x L ih =>
    have hx := h x List.mem_cons_self
    have hL (y : Scalar) (hy : y ∈ L) := h y (List.mem_cons_of_mem x hy)
    have hwx := wireBytes_length hx
    have hwL := flatMap_wireBytes_length hL
    rw [List.length_cons, Nat.succ_mul] at hfits
    have hlen : (memWrite out a (wireBytes code x)).length = out.length := memWrite_length (by omega)
    rw [wrArray, wr_accepted hx]
    dsimp only
    rw [ih hL (by omega), List.flatMap_cons, ← hwx, memWrite_memWrite (by omega)]

theorem wrArray_refused {out : Bytes} {a : Nat} {code : TypeCode} {L : List Scalar}
    (h : ¬ ∀ x ∈ L, scalarAccepted code x) : wrArray out a code L = none := by
  induction L generalizing out a with
  | nil => exact absurd (fun _ hx => absurd hx List.not_mem_nil) h
  | cons x L ih =>
    rw [wrArray]
    by_cases hx : scalarAccepted code x
    · rw [wr_accepted hx]
      exact ih fun hL => h (List.forall_mem_cons.mpr ⟨hx, hL⟩)
    · rw [wr_refused hx]

/-- With count 1 every code writes its scalar form (R154). -/
theorem microP_one (code : TypeCode) (out : Bytes) (a : Nat) (v : Value) :
    microP code out a 1 v = writeScalar code out a v := by
  cases code <;> rfl

/-- With another count every code but `B` and `c` writes an array (R154). -/
theorem microP_arr {code : TypeCode} (hc : code ≠ .c) (hB : code ≠ .B) {cnt : Nat} (hcnt : cnt ≠ 1) (out : Bytes)
    (a : Nat) (L : List Scalar) :
    microP code out a cnt (.arr L) = if L.length ≤ cnt then wrArray out a code L else none := by
  cases code with
  | c => exact absurd rfl hc
  | B => exact absurd rfl hB
  | _ => exact if_neg hcnt

theorem microP_str {cnt : Nat} (hcnt : cnt ≠ 1) (out : Bytes) (a : Nat) (S : Bytes) :
    microP .c out a cnt (.str S) = writeBytes out a cnt S := if_neg hcnt

theorem microP_bytes {cnt : Nat} (hcnt : cnt ≠ 1) (out : Bytes) (a : Nat) (S : Bytes) :
    microP .B out a cnt (.bytes S) = writeBytes out a cnt S := if_neg hcnt

/-- The bytes of an accepted value fit in its field. -/
theorem valueBytes_length_le {t : Token} {v : Value} (h : valueAccepted t v) :
    (valueBytes t.code v).length ≤ t.size := by
  obtain ⟨cnt, code⟩ := t
  by_cases hcnt : cnt = 1
  · subst hcnt
    unfold valueAccepted at h
    rw [if_pos rfl] at h
    cases v with
    | scalar x => exact (wireBytes_length h).le.trans (Nat.one_mul _).ge
    | _ => exact absurd h id
  · unfold valueAccepted at h
    rw [if_neg hcnt] at h
    cases v with
    | scalar x => exact absurd h id
    | str S => obtain ⟨rfl, hlen⟩ := h; exact hlen.trans (Nat.mul_one _).ge
    | bytes S => obtain ⟨rfl, hlen⟩ := h; exact hlen.trans (Nat.mul_one _).ge
    | arr L =>
      obtain ⟨-, -, hlen, hL⟩ := h
      exact (flatMap_wireBytes_length hL).le.trans (Nat.mul_le_mul_right _ hlen)

/-- An accepted value is written at the cursor as its bytes; the rest of the field is not touched (R152 to R154). -/
theorem microP_accepted {t : Token} {v : Value} {out : Bytes} {a : Nat} (h : valueAccepted t v)
    (hfits : a + t.size ≤ out.length) :
    microP t.code out a t.count v = some (memWrite out a (valueBytes t.code v)) := by
  obtain ⟨cnt, code⟩ := t
  by_cases hcnt : cnt = 1
  · subst hcnt
    unfold valueAccepted at h
    rw [if_pos rfl] at h
    rw [microP_one]
    cases v with
    | scalar x => exact wr_accepted h
    | _ => exact absurd h id
  · unfold valueAccepted at h
    rw [if_neg hcnt] at h
    cases v with
    | scalar x => exact absurd h id
    | str S => obtain ⟨rfl, hlen⟩ := h; exact (microP_str hcnt out a S).trans (if_pos hlen)
    | bytes S => obtain ⟨rfl, hlen⟩ := h; exact (microP_bytes hcnt out a S).trans (if_pos hlen)
    | arr L =>
      obtain ⟨hc, hB, hlen, hL⟩ := h
      have hle : L.length * code.width ≤ Token.size ⟨cnt, code⟩ := Nat.mul_le_mul_right _ hlen
      rw [microP_arr hc hB hcnt, if_pos hlen, wrArray_accepted hL ((Nat.add_le_add_left hle a).trans hfits)]
      rfl

/-- A value of another form, too long, or out of range is refused (R152, R154). -/
theorem microP_refused {t : Token} {v : Value} {out : Bytes} {a : Nat} (h : ¬ valueAccepted t v) :
    microP t.code out a t.count v = none := by
  obtain ⟨cnt, code⟩ := t
  by_cases hcnt : cnt = 1
  · subst hcnt
    unfold valueAccepted at h
    rw [if_pos rfl] at h
    rw [microP_one]
    cases v with
    | scalar x => exact wr_refused h
    | _ => rfl
  · unfold valueAccepted at h
    rw [if_neg hcnt] at h
    cases v with
    | scalar x => cases code <;> exact if_neg hcnt
    | str S =>
      cases code with
      | c => exact (microP_str hcnt out a S).trans (if_neg fun hlen => h ⟨rfl, hlen⟩)
      | _ => exact if_neg hcnt
    | bytes S =>
      cases code with
      | B => exact (microP_bytes hcnt out a S).trans (if_neg fun hlen => h ⟨rfl, hlen⟩)
      | _ => exact if_neg hcnt
    | arr L =>
      by_cases hc : code = .c
      · subst hc; exact if_neg hcnt
      · by_cases hB : code = .B
        · subst hB; exact if_neg hcnt
        · rw [microP_arr hc hB hcnt]
          split
          · exact wrArray_refused fun hL => h ⟨hc, hB, ‹_›, hL⟩
          · rfl

/-! ## One token of a running program -/

variable {s : State} {r : PackRun} {t : Token}

/-- A pack token as the bound and the field it writes. -/
theorem exec_pack_token_eq (hr : s.run = .pack r) (h : r.cur + t.size ≤ r.out.length) :
    exec (t.instr .pack) s =
      (packField (microP t.code) r.out r.cur t.count (fieldValue r.map (r.names.getD r.ti []))).elim
        (.next (s.respond (.error .eValue))) fun out => .next { s with run := afterWrite r t.size out } := by
  have hbound : ¬ r.cur + t.count * t.code.width > r.out.length := Nat.not_lt.mpr h
  rw [exec_pack_token, packStep, hr]
  dsimp only
  rw [if_neg hbound]
  cases packField (microP t.code) r.out r.cur t.count (fieldValue r.map (r.names.getD r.ti [])) <;> rfl

theorem exec_pack_token_past_end (hr : s.run = .pack r) (h : r.out.length < r.cur + t.size) :
    exec (t.instr .pack) s = .next (s.respond (.error .eBounds)) := by
  rw [exec_pack_token, packStep, hr]
  exact if_pos h

/-- A pack token whose name has a value and whose field fits (R152, R154): an accepted value is written and the cursors
move past the field, any other value ends the command. -/
theorem exec_pack_token_value (hr : s.run = .pack r) (h : r.cur + t.size ≤ r.out.length) {v : Value}
    (hv : fieldValue r.map (r.names.getD r.ti []) = some v) :
    (valueAccepted t v →
      exec (t.instr .pack) s =
        .next { s with run := afterWrite r t.size (memWrite r.out r.cur (valueBytes t.code v)) }) ∧
    (¬ valueAccepted t v →
      exec (t.instr .pack) s = .next { s with rsp := s.rsp ++ [.error .eValue], run := .idle }) := by
  rw [exec_pack_token_eq hr h, hv, packField]
  refine ⟨fun hacc => ?_, fun href => ?_⟩
  · rw [microP_accepted hacc h]; rfl
  · rw [microP_refused href]; rfl

/-! ## The frame of an ENCODE -/

section

variable {req : EncodeRequest} {d : Descriptor} {scratch : Bytes}

/-- Without a v2 key the frame ends at its checksum (R239, R240). -/
theorem finishFrame_unsigned (h : req.isV2 = false ∨ req.sign = none) :
    finishFrame req d scratch =
      requestFrame req d.crcExtra (scratch.take (truncLen scratch d.maxPayloadLen))
        (truncLen scratch d.maxPayloadLen) := by
  have hsign : signing req = none := by
    rw [signing]
    obtain h | h := h <;> simp [h]
  rw [finishFrame_eq, hsign]

theorem finishFrame_signed {sg : Sign} (hv2 : req.isV2 = true) (hsg : req.sign = some sg) :
    finishFrame req d scratch = withSigBlock sg (requestFrame req d.crcExtra
      (scratch.take (truncLen scratch d.maxPayloadLen)) (truncLen scratch d.maxPayloadLen)) := by
  have hsign : signing req = some sg := by rw [signing, if_pos hv2, hsg]
  rw [finishFrame_eq, hsign]

end

/-! ## The statements -/

/-- Settles O16: the seven tokens are instances of the rule for every token. -/
theorem signedFloatAndCharTokensReadTheirField : Obligations.SignedFloatAndCharTokensReadTheirField := by
  intro s r cnt hr _
  have byte (code : TypeCode) (hw : code.width = 1) (h : r.cur + cnt ≤ r.buf.length) :
      exec (Token.instr .unpack ⟨cnt, code⟩) s =
        .next { s with run := afterRead r cnt (tokenField code r.buf r.cur cnt) } := by
    have hsize : Token.size ⟨cnt, code⟩ = cnt := by rw [Token.size, hw, Nat.mul_one]
    have hread := exec_unpack_token_fits ⟨cnt, code⟩ hr (by rwa [hsize])
    rwa [hsize] at hread
  exact ⟨byte .b rfl, exec_unpack_token_fits ⟨cnt, .h⟩ hr, exec_unpack_token_fits ⟨cnt, .i⟩ hr,
    exec_unpack_token_fits ⟨cnt, .q⟩ hr, exec_unpack_token_fits ⟨cnt, .f⟩ hr, exec_unpack_token_fits ⟨cnt, .d⟩ hr,
    byte .c rfl⟩

/-- Settles O17: the bound is the first test of either direction. -/
theorem tokenPastTheEndIsAnError : Obligations.TokenPastTheEndIsAnError := by
  refine fun s t => ⟨fun r hr h => ?_, fun r hr h => exec_pack_token_past_end hr h⟩
  rw [exec_unpack_token, unpackStep_past_end hr h]
  refine ⟨fun hc => ?_, fun p hdr sig hc => ?_⟩ <;> rw [raiseDecode, hc] <;> rfl

/-- Settles O18: with count 1 a field is one scalar wide. -/
theorem packScalarTokensWriteTheirField : Obligations.PackScalarTokensWriteTheirField := by
  intro s r code v hr h hv
  have hsize : Token.size ⟨1, code⟩ = code.width := Nat.one_mul _
  obtain ⟨hwrite, hrefuse⟩ := exec_pack_token_value (t := ⟨1, code⟩) hr (by rwa [hsize]) hv
  refine ⟨fun x hx hacc => ?_, hrefuse⟩
  subst hx
  rw [hsize] at hwrite
  exact hwrite hacc

/-- Settles O19: the rule for every token with a value. -/
theorem packArrayTokensWriteTheirField : Obligations.PackArrayTokensWriteTheirField :=
  fun _ _ code cnt _ hr _ h hv => exec_pack_token_value (t := ⟨cnt, code⟩) hr h hv

/-- Settles O20: without a value `packField` leaves the buffer, after the bound. -/
theorem absentValueAdvancesWithoutWriting : Obligations.AbsentValueAdvancesWithoutWriting := by
  intro s r t hr hv
  exact ⟨fun h => by rw [exec_pack_token_eq hr h, hv]; rfl, fun h => exec_pack_token_past_end hr h⟩

/-- Settles O21: the buffer the program goes on with is what `packField` gives, which writes within the field. -/
theorem packTokenWritesOnlyItsField : Obligations.PackTokenWritesOnlyItsField := by
  intro s t r q tok hr h hq
  rw [exec_pack_token] at h
  obtain ⟨r', hr', ⟨-, rfl⟩ | ⟨hfits, ⟨-, rfl⟩ | ⟨out, hout, rfl⟩⟩⟩ := packStep_cases h
  all_goals obtain rfl := Run.pack.inj (hr.symm.trans hr')
  · cases hq
  · cases hq
  · cases hq
    exact packField_writesWithin hfits hout

/-- Settles O49: the end gives its caller the mapping, the buffer or the frame, the last by `finishFrame_eq`. -/
theorem tokenProgramsEnd : Obligations.TokenProgramsEnd := by
  refine ⟨fun s r hr hend => ?_, fun s r hr hend => ?_⟩
  · rw [step_unpack_end hr hend]
    refine ⟨fun hc => ?_, fun p hdr sig hc => ?_⟩ <;> rw [finishUnpack, hc] <;> rfl
  · rw [step_pack_end hr hend]
    refine ⟨fun hc => by rw [finishPack, hc]; rfl, fun req d hc => ?_⟩
    refine ⟨_, truncLen_truncatedTo r.out d.maxPayloadLen, fun hno => ?_, fun sg hv2 hsg => ?_⟩
    · rw [finishPack, hc]
      dsimp only
      rw [finishFrame_unsigned hno]
      rfl
    · rw [finishPack, hc]
      dsimp only
      rw [finishFrame_signed hv2 hsg]
      rfl

end Sys2Proof.Machine
end

section
/-! UNPACK as a whole: where its program fails, and the field of every token at its offset (R123, R130, R137, R149). -/

namespace Sys2Proof

/-- A slice of a slice is a slice. -/
theorem slice_slice {B : Bytes} {a b i j : Nat} (h : a + j ≤ b) :
    slice (slice B a b) i j = slice B (a + i) (a + j) := by
  have hlen : a + j - (a + i) = j - i := by omega
  have hmin : min (j - i) (b - a - i) = j - i := by omega
  rw [slice, slice, slice, List.drop_take, List.drop_drop, List.take_take, hlen, hmin]

theorem byteAt_slice {B : Bytes} {a b i : Nat} (h : a + i < b) : byteAt (slice B a b) i = byteAt B (a + i) := by
  rw [slice, byteAt_take (by omega), byteAt_drop]

namespace Machine

open Sys2Proof.Safety

/-! ## The class (e) checks -/

theorem program_format {fmt : Bytes} {names : List FieldName} {e : FormatError} (h : tokenize fmt = .error e) :
    program fmt names = .error (.format e) := by
  rw [program, h]

theorem program_mismatch {fmt : Bytes} {names : List FieldName} {toks : List Token} (h : tokenize fmt = .ok toks)
    (hbad : toks.length ≠ names.length ∨ ¬ names.Nodup) : program fmt names = .error .mismatch := by
  rw [program, h]
  dsimp only
  split
  · rfl
  · rename_i hlen
    rw [if_pos (hbad.resolve_left hlen)]

/-! ## Offsets -/

@[simp] theorem programSize_nil : programSize [] = 0 := rfl

@[simp] theorem programSize_cons (t : Token) (toks : List Token) :
    programSize (t :: toks) = t.size + programSize toks := by
  simp [programSize]

@[simp] theorem offsetOf_zero (toks : List Token) : offsetOf toks 0 = 0 := by simp [offsetOf]

@[simp] theorem offsetOf_cons_succ (t : Token) (toks : List Token) (k : Nat) :
    offsetOf (t :: toks) (k + 1) = t.size + offsetOf toks k := by
  simp [offsetOf]

/-- The fields of a program lie within its size, one after the other (R123). -/
theorem offsetOf_add_size_le {toks : List Token} {k : Nat} {t : Token} (h : toks[k]? = some t) :
    offsetOf toks k + t.size ≤ programSize toks := by
  induction toks generalizing k with
  | nil => cases h
  | cons u toks ih =>
    rw [programSize_cons]
    cases k with
    | zero => cases h; rw [offsetOf_zero]; omega
    | succ k =>
      have := ih (k := k) h
      rw [offsetOf_cons_succ]
      omega

/-! ## A field is read from its own bytes -/

/-- The scalar a code reads from the little-endian value of its bytes (R134). -/
def scalarOf (code : TypeCode) (u : Nat) : Scalar :=
  match code with
  | .B | .H | .I | .Q => .int u
  | .b | .h | .i | .q => .int (sext (8 * code.width) u)
  | .f => .f32 (BitVec.ofNat 32 u)
  | .d => .f64 (BitVec.ofNat 64 u)
  | .c => .char (BitVec.ofNat 8 u)

theorem rd_eq (buf : Bytes) (a : Nat) (code : TypeCode) :
    rd buf a code = scalarOf code (ule (slice buf a (a + code.width))) := by
  cases code <;> rfl

theorem rd_congr {buf buf' : Bytes} {a a' : Nat} {code : TypeCode}
    (h : slice buf a (a + code.width) = slice buf' a' (a' + code.width)) : rd buf a code = rd buf' a' code := by
  rw [rd_eq, rd_eq, h]

/-- A microcodelet reads the bytes of its field and no other (R134, R135). -/
theorem microU_congr {code : TypeCode} {buf buf' : Bytes} {a a' cnt : Nat}
    (h : slice buf a (a + cnt * code.width) = slice buf' a' (a' + cnt * code.width)) :
    microU code buf a cnt = microU code buf' a' cnt := by
  have elem (k : Nat) (hk : k < cnt) :
      rd buf (a + code.width * k) code = rd buf' (a' + code.width * k) code := by
    have hin : code.width * k + code.width ≤ cnt * code.width := by
      calc code.width * k + code.width = (k + 1) * code.width := by ring
        _ ≤ cnt * code.width := Nat.mul_le_mul_right _ hk
    have hsub := congrArg (fun F => slice F (code.width * k) (code.width * k + code.width)) h
    simp only [slice_slice (Nat.add_le_add_left hin _), ← Nat.add_assoc] at hsub
    exact rd_congr hsub
  have scalar (hcnt : cnt = 1) : rd buf a code = rd buf' a' code := by simpa using elem 0 (by omega)
  have numeric : readNumeric code buf a cnt = readNumeric code buf' a' cnt := by
    rw [readNumeric_eq_map, readNumeric_eq_map]
    split
    · rw [scalar ‹_›]
    · rw [List.map_congr_left fun k hk => elem k (List.mem_range.mp hk)]
  cases code with
  | B =>
    rw [TypeCode.width, Nat.mul_one] at h
    rw [microU, microU, microUB, microUB]
    split
    · rw [scalar ‹_›]
    · rw [h]
  | c =>
    rw [TypeCode.width, Nat.mul_one] at h
    rw [microU, microU, microUc, microUc]
    split
    · rw [scalar ‹_›]
    · rw [h]
  | _ => exact numeric

/-! ## The token loop -/

/-- What a complete loop reads: token by token, each at its offset from the cursor. -/
theorem unpackTokens_fits {buf : Bytes} {ps : List (Token × FieldName)} {cur : Nat}
    (h : cur + programSize (ps.map Prod.fst) ≤ buf.length) :
    unpackTokens buf ps cur = some (ps.mapIdx fun k e =>
      (e.2, microU e.1.code buf (cur + offsetOf (ps.map Prod.fst) k) e.1.count)) := by
  induction ps generalizing cur with
  | nil => rfl
  | cons p ps ih =>
    obtain ⟨t, name⟩ := p
    rw [List.map_cons, programSize_cons] at h
    dsimp only at h
    have hbound : ¬ cur + t.size > buf.length := by omega
    rw [unpackTokens, if_neg hbound, ih (by omega)]
    simp [List.mapIdx_cons, Nat.add_assoc]

theorem unpack_ok {buf fmt : Bytes} {names : List FieldName} {toks : List Token} (h : program fmt names = .ok toks)
    (hfits : programSize toks ≤ buf.length) :
    unpack buf fmt names = .ok ((toks.zip names).mapIdx fun k e =>
      (e.2, microU e.1.code buf (offsetOf toks k) e.1.count)) := by
  obtain ⟨-, hlen, -⟩ := program_ok_iff.mp h
  have hfst : (toks.zip names).map Prod.fst = toks := List.map_fst_zip hlen.le
  rw [unpack, h]
  dsimp only
  rw [unpackTokens_fits (by rw [hfst]; omega), hfst]
  simp only [Nat.zero_add]

theorem unpack_short {buf fmt : Bytes} {names : List FieldName} {toks : List Token} (h : program fmt names = .ok toks)
    (hshort : buf.length < programSize toks) : unpack buf fmt names = .error .decode := by
  obtain ⟨-, hlen, -⟩ := program_ok_iff.mp h
  have hfst : (toks.zip names).map Prod.fst = toks := List.map_fst_zip hlen.le
  rw [unpack, h]
  dsimp only
  rw [(unpackTokens_none_iff buf (toks.zip names) 0 (Nat.zero_le _)).mpr (by rw [hfst]; omega)]

theorem unpack_defect {buf fmt : Bytes} {names : List FieldName} {e : FormatDefect}
    (h : program fmt names = .error e) : unpack buf fmt names = .error (.defect e) := by
  rw [unpack, h]

/-- What UNPACK reads is what the rules of the tokens read, each at its offset. -/
theorem unpack_mappingAt {buf fmt : Bytes} {names : List FieldName} {toks : List Token}
    (h : program fmt names = .ok toks) (hfits : programSize toks ≤ buf.length) :
    unpack buf fmt names = .ok (mappingAt toks names buf) := by
  obtain ⟨-, hlen, -⟩ := program_ok_iff.mp h
  rw [unpack_ok h hfits, mappingAt]
  congr 1
  apply List.ext_getElem
  · simp [hlen]
  · intro k hk hk'
    simp only [List.length_mapIdx] at hk hk'
    have hname : k < names.length := hlen ▸ hk'
    have hfield := offsetOf_add_size_le (List.getElem?_eq_getElem hk')
    simp [hname, microU_eq_tokenField (hfield.trans hfits)]

/-- Settles O13: the loop reads each field at its offset, and from its own bytes only. -/
theorem unpackReadsEveryFieldAtItsOffset : Obligations.UnpackReadsEveryFieldAtItsOffset := by
  intro s buf fmt names toks hidle htok hlen hnodup hfits
  have hprog := program_ok_iff.mpr ⟨htok, hlen, hnodup⟩
  refine ⟨?_, fun tail => ?_⟩
  · rw [exec_unpack_ok hidle (unpack_mappingAt hprog hfits), State.respond_idle hidle]
  · have hlonger : programSize toks ≤ (buf ++ tail).length := by rw [List.length_append]; omega
    have hsame : unpack (buf ++ tail) fmt names = unpack buf fmt names := by
      rw [unpack_ok hprog hlonger, unpack_ok hprog hfits]
      congr 1
      apply List.ext_getElem
      · simp
      · intro k hk _
        simp only [List.length_mapIdx, List.length_zip] at hk
        have hfield := offsetOf_add_size_le (List.getElem?_eq_getElem (l := toks) (i := k) (by omega))
        have hslice := slice_append_left tail (i := offsetOf toks k) (hfield.trans hfits)
        simp only [List.getElem_mapIdx, List.getElem_zip, microU_congr hslice]
    rw [exec_unpack_ok hidle (unpack_mappingAt hprog hfits),
      exec_unpack_ok hidle (hsame.trans (unpack_mappingAt hprog hfits))]

/-- Settles O14: the class (e) checks come first, then the bound of the loop. -/
theorem unpackErrorsInOrder : Obligations.UnpackErrorsInOrder := by
  intro s buf fmt names hidle
  refine ⟨fun e he => ?_, fun toks htok => ⟨fun hbad => ?_, fun hlen hnodup hshort => ?_⟩⟩
  · rw [exec_unpack_error hidle (unpack_defect (program_format he)), State.respond_idle hidle]
    rfl
  · rw [exec_unpack_error hidle (unpack_defect (program_mismatch htok hbad)), State.respond_idle hidle]
    rfl
  · rw [exec_unpack_error hidle (unpack_short (program_ok_iff.mpr ⟨htok, hlen, hnodup⟩) hshort),
      State.respond_idle hidle]
    rfl

/-! ## Zeros -/

theorem rd_zeros (n a : Nat) (code : TypeCode) : rd (zeros n) a code = zeroScalar code := by
  rw [rd_eq, slice_zeros, ule_zeros]
  cases code <;> rfl

/-- A field of zeros reads as the zero value of its token (R254). -/
theorem microU_zeros {t : Token} {n a : Nat} (h : a + t.size ≤ n) :
    microU t.code (zeros n) a t.count = zeroValue t := by
  obtain ⟨cnt, code⟩ := t
  have numeric : readNumeric code (zeros n) a cnt =
      if cnt = 1 then .scalar (zeroScalar code) else .arr (List.replicate cnt (zeroScalar code)) := by
    rw [readNumeric_eq_map]
    simp only [rd_zeros, List.map_const', List.length_range]
  cases code with
  | B =>
    have hfield : min (a + cnt - a) (n - a) = cnt := by simp only [Token.size, TypeCode.width] at h; omega
    change microUB (zeros n) a cnt = _
    rw [microUB, rd_zeros, slice_zeros, hfield]
    rfl
  | c =>
    have hcut (m : Nat) : untilZero (zeros m) = [] := by cases m <;> rfl
    change microUc (zeros n) a cnt = _
    rw [microUc, rd_zeros, slice_zeros, hcut]
    rfl
  | _ => exact numeric

theorem unpack_zeros {fmt : Bytes} {names : List FieldName} {toks : List Token} {n : Nat}
    (h : program fmt names = .ok toks) (hfits : programSize toks ≤ n) :
    unpack (zeros n) fmt names = .ok (names.zip (toks.map zeroValue)) := by
  obtain ⟨-, hlen, -⟩ := program_ok_iff.mp h
  rw [unpack_ok h (by rwa [zeros_length])]
  congr 1
  apply List.ext_getElem
  · simp [hlen]
  · intro k hk _
    simp only [List.length_mapIdx, List.length_zip] at hk
    have hfield := offsetOf_add_size_le (List.getElem?_eq_getElem (l := toks) (i := k) (by omega))
    simp [microU_zeros (hfield.trans hfits)]

/-- Settles O3: BUILD_DEFAULT makes the checks UNPACK makes, and its zero values are what zeros read as. -/
theorem buildDefaultIsTheMappingOfZeros : Obligations.BuildDefaultIsTheMappingOfZeros := by
  intro s id hidle
  refine ⟨fun hnone => ?_, fun d hd => ⟨fun e he => ?_, fun toks htok => ⟨fun hbad => ?_, fun hlen hnodup => ⟨?_, ?_⟩⟩⟩⟩
  · have hdefault : buildDefault s.registry id = .error .eUnknownId := by rw [buildDefault, hnone]
    rw [exec_buildDefault_error hidle hdefault, State.respond_idle hidle]
  · have hdefault : buildDefault s.registry id = .error .eFormat := by
      rw [buildDefault, hd]
      simp only [program_format he, FormatDefect.error]
    rw [exec_buildDefault_error hidle hdefault, State.respond_idle hidle]
  · have hdefault : buildDefault s.registry id = .error .eMismatch := by
      rw [buildDefault, hd]
      simp only [program_mismatch htok hbad, FormatDefect.error]
    rw [exec_buildDefault_error hidle hdefault, State.respond_idle hidle]
  · have hdefault : buildDefault s.registry id = .ok (d.fields.zip (toks.map zeroValue)) := by
      rw [buildDefault, hd]
      simp only [program_ok_iff.mpr ⟨htok, hlen, hnodup⟩]
    rw [exec_buildDefault_ok hidle hdefault, State.respond_idle hidle]
  · intro n hfits
    rw [exec_unpack_ok hidle (unpack_zeros (program_ok_iff.mpr ⟨htok, hlen, hnodup⟩) hfits), State.respond_idle hidle]

end Machine

end Sys2Proof
end

section
/-! PACK as a whole: which token fails, what every byte of the result is, and what UNPACK reads back
(R150 to R156, R168). -/

namespace Sys2Proof.Machine

open Sys2Proof.Safety

/-! ## What the token loop writes -/

/-- The bytes a field is written as: none where the mapping has no value for its name (R151). -/
def fieldBytes (map : Mapping) (t : Token) (name : FieldName) : Bytes :=
  match fieldValue map name with
  | none => []
  | some v => valueBytes t.code v

/-- The field of `n` bytes at `a` holds `S`, and after it what the field held before. -/
def FieldWritten (out out' : Bytes) (a n : Nat) (S : Bytes) : Prop :=
  ∀ j < n, byteAt out' (a + j) = if j < S.length then byteAt S j else byteAt out (a + j)

theorem fieldBytes_length_le {map : Mapping} {t : Token} {name : FieldName}
    (h : ∀ v ∈ fieldValue map name, valueAccepted t v) : (fieldBytes map t name).length ≤ t.size := by
  unfold fieldBytes
  cases hv : fieldValue map name with
  | none => exact Nat.zero_le _
  | some v => exact valueBytes_length_le (h v hv)

/-- A field whose value is accepted, or absent, is written as its bytes. -/
theorem packField_accepted {map : Mapping} {t : Token} {name : FieldName} {out : Bytes} {a : Nat}
    (h : ∀ v ∈ fieldValue map name, valueAccepted t v) (hfits : a + t.size ≤ out.length) :
    packField (microP t.code) out a t.count (fieldValue map name) =
      some (memWrite out a (fieldBytes map t name)) := by
  unfold fieldBytes
  cases hv : fieldValue map name with
  | none => exact congrArg some (memWrite_nil out a).symm
  | some v => exact microP_accepted (h v hv) hfits

theorem memWrite_fieldWritten {out S : Bytes} {a n : Nat} (hS : S.length ≤ n) (hfits : a + n ≤ out.length) :
    FieldWritten out (memWrite out a S) a n S := by
  intro j hj
  split
  · exact byteAt_memWrite_inside (by omega) ‹_›
  · exact byteAt_memWrite_outside (by omega) (by omega)

theorem WritesWithin.trans {out mid out' : Bytes} {a m n : Nat} (h : WritesWithin out mid a m)
    (h' : WritesWithin mid out' (a + m) n) : WritesWithin out out' a (m + n) :=
  ⟨h'.1.trans h.1, fun i hi => (h'.2 i (by omega)).trans (h.2 i (by omega))⟩

/-- The whole loop, where every value is accepted and every field fits: the cursor at the end, and every byte. -/
theorem packTokens_accepted {map : Mapping} {ps : List (Token × FieldName)} {out : Bytes} {cur : Nat}
    (hacc : ∀ e ∈ ps, ∀ v ∈ fieldValue map e.2, valueAccepted e.1 v)
    (hfits : cur + programSize (ps.map Prod.fst) ≤ out.length) :
    ∃ out', packTokens map ps out cur = .ok (out', cur + programSize (ps.map Prod.fst)) ∧
      WritesWithin out out' cur (programSize (ps.map Prod.fst)) ∧
      ∀ k t name, ps[k]? = some (t, name) →
        FieldWritten out out' (cur + offsetOf (ps.map Prod.fst) k) t.size (fieldBytes map t name) := by
  induction ps generalizing out cur with
  | nil => exact ⟨out, rfl, .refl _ _ _, fun k t name h => nomatch h⟩
  | cons p ps ih =>
    obtain ⟨t, name⟩ := p
    rw [List.map_cons, programSize_cons] at hfits ⊢
    dsimp only at hfits ⊢
    have hfirst := hacc (t, name) List.mem_cons_self
    have hS := fieldBytes_length_le hfirst
    have hhere : cur + t.size ≤ out.length := by omega
    have hwithin : WritesWithin out (memWrite out cur (fieldBytes map t name)) cur t.size :=
      memWrite_writesWithin hS hhere
    obtain ⟨out', hloop, hrest, hfields⟩ := ih (out := memWrite out cur (fieldBytes map t name)) (cur := cur + t.size)
      (fun e he => hacc e (List.mem_cons_of_mem _ he)) (by rw [hwithin.1]; omega)
    refine ⟨out', ?_, hwithin.trans hrest, fun k u uname hk j hj => ?_⟩
    · rw [packTokens, if_neg (Nat.not_lt.mpr hhere), packField_accepted hfirst hhere]
      dsimp only
      rw [hloop, Nat.add_assoc]
    · cases k with
      | zero =>
        cases hk
        rw [offsetOf_zero, Nat.add_zero, hrest.2 _ (by omega)]
        exact memWrite_fieldWritten hS hhere j hj
      | succ k =>
        rw [offsetOf_cons_succ, ← Nat.add_assoc]
        rw [hfields k u uname hk j hj]
        rw [hwithin.2 _ (by omega)]

/-- A loop that completes up to some token goes on from there. -/
theorem packTokens_append {map : Mapping} {ps qs : List (Token × FieldName)} {out mid : Bytes} {cur stop : Nat}
    (h : packTokens map ps out cur = .ok (mid, stop)) :
    packTokens map (ps ++ qs) out cur = packTokens map qs mid stop := by
  induction ps generalizing out cur with
  | nil => cases h; rfl
  | cons p ps ih =>
    obtain ⟨t, name⟩ := p
    rw [packTokens] at h
    rw [List.cons_append, packTokens]
    split at h
    · cases h
    · rw [if_neg ‹_›]
      split at h
      · cases h
      · exact ih h

/-! ## PACK -/

section

variable {map : Mapping} {fmt buf : Bytes} {names : List FieldName} {off : Nat} {toks : List Token}

theorem pack_defect {e : FormatDefect} (h : program fmt names = .error e) :
    pack map fmt names buf off = .error (.defect e) := by
  rw [pack, h]

theorem pack_program (h : program fmt names = .ok toks) :
    pack map fmt names buf off = packTokens map (toks.zip names) buf off := by
  rw [pack, h]

/-- PACK of accepted values into a buffer they fit in. -/
theorem pack_accepted (h : program fmt names = .ok toks) (hacc : mappingAccepted map toks names)
    (hfits : off + programSize toks ≤ buf.length) :
    ∃ out, pack map fmt names buf off = .ok (out, off + programSize toks) ∧
      WritesWithin buf out off (programSize toks) ∧
      ∀ k t name, toks[k]? = some t → names[k]? = some name →
        FieldWritten buf out (off + offsetOf toks k) t.size (fieldBytes map t name) := by
  obtain ⟨-, hlen, -⟩ := program_ok_iff.mp h
  have hfst : (toks.zip names).map Prod.fst = toks := List.map_fst_zip hlen.le
  obtain ⟨out, hloop, hwithin, hfields⟩ := packTokens_accepted hacc (by rwa [hfst])
  rw [hfst] at hloop hwithin hfields
  refine ⟨out, (pack_program h).trans hloop, hwithin, fun k t name ht hn => hfields k t name ?_⟩
  rw [List.getElem?_zip_eq_some]
  exact ⟨ht, hn⟩

/-- A field whose bytes are known is the slice they make. -/
theorem FieldWritten.slice_eq {out out' S : Bytes} {a n : Nat} (h : FieldWritten out out' a n S) (hS : S.length ≤ n)
    (hfits : a + n ≤ out'.length) : slice out' a (a + S.length) = S := by
  rw [← map_byteAt_range (by omega), ← List.map_congr_left (f := byteAt S) fun j hj => ?_]
  · have hall := map_byteAt_range (B := S) (a := 0) (n := S.length) (by omega)
    simpa [slice] using hall
  · have hj' := List.mem_range.mp hj
    rw [h j (by omega), if_pos hj']

/-- Settles O22: the loop's own account of every byte. -/
theorem packWritesEveryFieldAtItsOffset : Obligations.PackWritesEveryFieldAtItsOffset := by
  intro s map fmt names buf off toks hidle htok hlen hnodup hacc hfits
  have hprog := program_ok_iff.mpr ⟨htok, hlen, hnodup⟩
  obtain ⟨out, hpack, ⟨hlength, hkeep⟩, hfields⟩ := pack_accepted hprog hacc hfits
  refine ⟨out, ?_, hlength, hkeep, fun k t name ht hn => ?_⟩
  · rw [exec_pack_ok hidle hpack, State.respond_idle hidle]
  · have hfield := hfields k t name ht hn
    have hin := offsetOf_add_size_le ht
    have hS : (fieldBytes map t name).length ≤ t.size :=
      fieldBytes_length_le (hacc (t, name) (List.mem_of_getElem? (List.getElem?_zip_eq_some.mpr ⟨ht, hn⟩)))
    refine ⟨hfield.slice_eq hS (by omega), fun j hj hj' => ?_⟩
    exact (hfield j hj').trans (if_neg (Nat.not_lt.mpr hj))

theorem offsetOf_succ {k : Nat} {t : Token} (h : toks[k]? = some t) :
    offsetOf toks (k + 1) = offsetOf toks k + t.size := by
  simp [offsetOf, programSize, List.take_add_one, h]

/-- PACK up to its token `k`, all before it accepted and within the buffer: the loop goes on at that token. -/
theorem pack_prefix (h : program fmt names = .ok toks) {k : Nat} {t : Token} {name : FieldName} (ht : toks[k]? = some t)
    (hn : names[k]? = some name) (hacc : mappingAccepted map (toks.take k) (names.take k))
    (hfits : k = 0 ∨ off + offsetOf toks k ≤ buf.length) :
    ∃ out rest, out.length = buf.length ∧
      pack map fmt names buf off = packTokens map ((t, name) :: rest) out (off + offsetOf toks k) := by
  obtain ⟨-, hlen, -⟩ := program_ok_iff.mp h
  have hzip : (toks.zip names)[k]? = some (t, name) := List.getElem?_zip_eq_some.mpr ⟨ht, hn⟩
  obtain ⟨hk, hget⟩ := List.getElem?_eq_some_iff.mp hzip
  have hsplit : toks.zip names = (toks.zip names).take k ++ (t, name) :: (toks.zip names).drop (k + 1) := by
    rw [← hget, ← List.drop_eq_getElem_cons, List.take_append_drop]
  have hprefix : ∃ out, out.length = buf.length ∧
      packTokens map ((toks.zip names).take k) buf off = .ok (out, off + offsetOf toks k) := by
    obtain rfl | hfits := hfits
    · exact ⟨buf, rfl, by rw [offsetOf_zero]; rfl⟩
    · have hfst : ((toks.zip names).take k).map Prod.fst = toks.take k := by
        rw [List.map_take, List.map_fst_zip hlen.le]
      have hzips : (toks.take k).zip (names.take k) = (toks.zip names).take k := List.take_zipWith.symm
      rw [← hzips] at hfst ⊢
      obtain ⟨out, hloop, hwithin, -⟩ := packTokens_accepted hacc (by rwa [hfst])
      rw [hfst] at hloop
      exact ⟨out, hwithin.1, hloop⟩
  obtain ⟨out, hlength, hloop⟩ := hprefix
  refine ⟨out, (toks.zip names).drop (k + 1), hlength, ?_⟩
  rw [pack_program h, ← packTokens_append hloop, ← hsplit]

/-- Settles O23: the checks before the loop, then the first token the loop cannot pass, its bound before its value. -/
theorem packErrorsInOrder : Obligations.PackErrorsInOrder := by
  intro s map fmt names buf off hidle
  refine ⟨fun e he => ?_, fun toks htok => ⟨fun hbad => ?_, fun hlen hnodup k t name ht hn hacc hfits => ?_⟩⟩
  · rw [exec_pack_error hidle (pack_defect (program_format he)), State.respond_idle hidle]
    rfl
  · rw [exec_pack_error hidle (pack_defect (program_mismatch htok hbad)), State.respond_idle hidle]
    rfl
  · have hprog := program_ok_iff.mpr ⟨htok, hlen, hnodup⟩
    obtain ⟨out, rest, hlength, hpack⟩ := pack_prefix hprog ht hn hacc hfits
    rw [offsetOf_succ ht, ← Nat.add_assoc]
    refine ⟨fun hpast => ?_, fun hroom ⟨v, hv, href⟩ => ?_⟩
    · have hbounds : pack map fmt names buf off = .error .bounds := by
        rw [hpack, packTokens, if_pos (by rw [hlength]; exact hpast)]
      rw [exec_pack_error hidle hbounds, State.respond_idle hidle]
      rfl
    · have hvalue : pack map fmt names buf off = .error .value := by
        rw [hpack, packTokens, if_neg (by rw [hlength]; exact Nat.not_lt.mpr hroom), hv, packField, microP_refused href]
      rw [exec_pack_error hidle hvalue, State.respond_idle hidle]
      rfl

end

end Sys2Proof.Machine
end

section
/-! What UNPACK reads back of what PACK wrote into zeros (R168). -/

namespace Sys2Proof

theorem slice_append_right (A B : Bytes) (i j : Nat) : slice (A ++ B) (A.length + i) (A.length + j) = slice B i j := by
  have hlen : A.length + j - (A.length + i) = j - i := by omega
  rw [slice, slice, List.drop_length_add_append, hlen]

namespace Machine

open Sys2Proof.Safety

/-! ## One scalar -/

/-- A little-endian integer of `w` bytes is read back as its residue. -/
theorem ule_wireBytes_int (code : TypeCode) (z : Int) :
    ule (wireBytes code (.int z)) = (z % 2 ^ (8 * code.width)).toNat := by
  have hpow : (256 : Nat) ^ code.width = 2 ^ (8 * code.width) := by rw [Nat.pow_mul]
  have hpos : (0 : Int) < 2 ^ (8 * code.width) := by positivity
  have hlt : z % 2 ^ (8 * code.width) < 2 ^ (8 * code.width) := Int.emod_lt_of_pos z hpos
  rw [wireBytes, ule_le_of_lt]
  rw [hpow, Int.toNat_lt (Int.emod_nonneg z hpos.ne')]
  exact_mod_cast hlt

/-- An accepted scalar is read back from its bytes (R134, R153). -/
theorem scalarOf_wireBytes {code : TypeCode} {x : Scalar} (h : scalarAccepted code x) :
    scalarOf code (ule (wireBytes code x)) = x := by
  cases x with
  | f32 u =>
    cases h
    exact congrArg Scalar.f32 (by rw [wireBytes, ule_le_of_lt u.isLt, BitVec.ofNat_toNat, BitVec.setWidth_eq])
  | f64 u =>
    cases h
    exact congrArg Scalar.f64 (by rw [wireBytes, ule_le_of_lt u.isLt, BitVec.ofNat_toNat, BitVec.setWidth_eq])
  | char b =>
    cases h
    have hule : ule [b] = b.toNat := by rw [ule, ule, Nat.mul_zero, Nat.add_zero]
    exact congrArg Scalar.char (by rw [wireBytes, hule, BitVec.ofNat_toNat, BitVec.setWidth_eq])
  | int z =>
    change intInRange code z at h
    rw [ule_wireBytes_int]
    cases code with
    | f | d | c => exact absurd h id
    | B | H | I | Q =>
      obtain ⟨hlo, hhi⟩ := h
      refine congrArg Scalar.int ?_
      norm_num [TypeCode.width] at hlo hhi ⊢
      omega
    | b | h | i | q =>
      obtain ⟨hlo, hhi⟩ := h
      refine congrArg Scalar.int ?_
      norm_num [TypeCode.width, sext] at hlo hhi ⊢
      split <;> omega

/-! ## One field -/

theorem microU_one (code : TypeCode) (buf : Bytes) (a : Nat) : microU code buf a 1 = .scalar (rd buf a code) := by
  cases code <;> rfl

/-- With another count every code but `B` and `c` reads an array (R135). -/
theorem microU_arr {code : TypeCode} (hc : code ≠ .c) (hB : code ≠ .B) {cnt : Nat} (hcnt : cnt ≠ 1) (buf : Bytes)
    (a : Nat) : microU code buf a cnt = .arr (rdArray buf a code cnt) := by
  cases code with
  | c => exact absurd rfl hc
  | B => exact absurd rfl hB
  | _ => exact if_neg hcnt

theorem rd_append_left {S : Bytes} {code : TypeCode} (hS : S.length = code.width) (B : Bytes) :
    rd (S ++ B) 0 code = scalarOf code (ule S) := by
  rw [rd_eq, Nat.zero_add, slice_append_left B hS.ge, ← hS, slice_zero, List.take_length]

theorem rdArray_append_right (A B : Bytes) (code : TypeCode) (cnt : Nat) :
    rdArray (A ++ B) A.length code cnt = rdArray B 0 code cnt := by
  rw [rdArray_eq_map, rdArray_eq_map]
  refine List.map_congr_left fun k _ => rd_congr ?_
  rw [Nat.add_assoc, slice_append_right, Nat.zero_add]

/-- An array is read back element by element, and the zeros after it as zero elements. -/
theorem rdArray_flatMap_wireBytes {code : TypeCode} {L : List Scalar} (h : ∀ x ∈ L, scalarAccepted code x) (m n : Nat) :
    rdArray (L.flatMap (wireBytes code) ++ zeros n) 0 code (L.length + m) =
      L ++ List.replicate m (zeroScalar code) := by
  induction L with
  | nil =>
    rw [List.flatMap_nil, List.nil_append, List.length_nil, Nat.zero_add, List.nil_append, rdArray_eq_map]
    simp only [rd_zeros, List.map_const', List.length_range]
  | cons x L ih =>
    have hx := h x List.mem_cons_self
    have hw := wireBytes_length hx
    rw [List.flatMap_cons, List.append_assoc, List.length_cons, Nat.succ_add, rdArray, rd_append_left hw,
      scalarOf_wireBytes hx, Nat.zero_add, ← hw, rdArray_append_right,
      ih fun y hy => h y (List.mem_cons_of_mem x hy), List.cons_append]

theorem untilZero_append_zeros (S : Bytes) (n : Nat) : untilZero (S ++ zeros n) = untilZero S := by
  induction S with
  | nil => cases n <;> rfl
  | cons b S ih =>
    simp only [untilZero] at ih ⊢
    rw [List.cons_append, List.takeWhile_cons, List.takeWhile_cons, ih]

/-- A field that holds an accepted value's bytes and then zeros is read back as the canonical value (R168). -/
theorem microU_valueBytes {t : Token} {v : Value} (h : valueAccepted t v) :
    microU t.code (valueBytes t.code v ++ zeros (t.size - (valueBytes t.code v).length)) 0 t.count =
      canonical t (some v) := by
  have hle := valueBytes_length_le h
  obtain ⟨cnt, code⟩ := t
  by_cases hcnt : cnt = 1
  · subst hcnt
    unfold valueAccepted at h
    rw [if_pos rfl] at h
    rw [microU_one]
    cases v with
    | scalar x => exact congrArg Value.scalar ((rd_append_left (wireBytes_length h) _).trans (scalarOf_wireBytes h))
    | _ => exact absurd h id
  · unfold valueAccepted at h
    rw [if_neg hcnt] at h
    cases v with
    | scalar x => exact absurd h id
    | str S =>
      obtain ⟨hcode, hlen⟩ := h
      obtain rfl : code = .c := hcode
      change S.length ≤ cnt at hlen
      have hall : slice (S ++ zeros (cnt * 1 - S.length)) 0 (0 + cnt) = S ++ zeros (cnt * 1 - S.length) := by
        rw [Nat.zero_add, slice_zero, List.take_of_length_le (by simp; omega)]
      refine (if_neg hcnt).trans (congrArg Value.str ?_)
      exact (congrArg untilZero hall).trans (untilZero_append_zeros S _)
    | bytes S =>
      obtain ⟨hcode, hlen⟩ := h
      obtain rfl : code = .B := hcode
      change S.length ≤ cnt at hlen
      have hall : slice (S ++ zeros (cnt * 1 - S.length)) 0 (0 + cnt) = S ++ zeros (cnt - S.length) := by
        rw [Nat.zero_add, slice_zero, Nat.mul_one, List.take_of_length_le (by simp; omega)]
      exact (if_neg hcnt).trans (congrArg Value.bytes hall)
    | arr L =>
      obtain ⟨hc, hB, hlen, hL⟩ := h
      rw [microU_arr hc hB hcnt]
      have hread := rdArray_flatMap_wireBytes hL (cnt - L.length)
      rw [Nat.add_sub_cancel' hlen] at hread
      exact congrArg Value.arr (hread _)

/-- A field of a buffer that was zeros before PACK is read back as the canonical value. -/
theorem microU_fieldWritten {map : Mapping} {t : Token} {name : FieldName} {n a : Nat} {out : Bytes}
    (hacc : ∀ v ∈ fieldValue map name, valueAccepted t v)
    (h : FieldWritten (zeros n) out a t.size (fieldBytes map t name)) (hfits : a + t.size ≤ out.length) :
    microU t.code out a t.count = canonical t (fieldValue map name) := by
  have hS := fieldBytes_length_le hacc
  set S := fieldBytes map t name with hSdef
  have hslice : slice out a (a + t.size) = slice (S ++ zeros (t.size - S.length)) 0 (0 + t.size) := by
    rw [← map_byteAt_range hfits, ← map_byteAt_range (by simp; omega)]
    refine List.map_congr_left fun j hj => ?_
    rw [h j (List.mem_range.mp hj), Nat.zero_add]
    split
    · rw [byteAt_append_left ‹_›]
    · rw [byteAt_append_right (Nat.not_lt.mp ‹_›), byteAt_zeros, byteAt_zeros]
  rw [microU_congr hslice, hSdef, fieldBytes]
  cases hv : fieldValue map name with
  | none => exact microU_zeros (by simp)
  | some v => exact microU_valueBytes (hacc v hv)

/-! ## The whole mapping -/

/-- PACK into zeros, then UNPACK. -/
theorem pack_unpack {map : Mapping} {fmt : Bytes} {names : List FieldName} {n : Nat} {toks : List Token}
    (h : program fmt names = .ok toks) (hacc : mappingAccepted map toks names) (hfits : programSize toks ≤ n) :
    ∃ out, pack map fmt names (zeros n) 0 = .ok (out, programSize toks) ∧ out.length = n ∧
      unpack out fmt names = .ok (canonicalMapping map toks names) := by
  obtain ⟨out, hpack, ⟨hlength, -⟩, hfields⟩ := pack_accepted (buf := zeros n) (off := 0) h hacc (by simpa using hfits)
  obtain ⟨-, hlen, -⟩ := program_ok_iff.mp h
  rw [zeros_length] at hlength
  refine ⟨out, by rw [hpack, Nat.zero_add], hlength, ?_⟩
  rw [unpack_ok h (by omega), canonicalMapping]
  congr 1
  apply List.ext_getElem
  · simp
  · intro k hk _
    simp only [List.length_mapIdx, List.length_zip] at hk
    have htok : k < toks.length := by omega
    have hname : k < names.length := by omega
    have hin := offsetOf_add_size_le (List.getElem?_eq_getElem htok)
    have hmem : (toks[k], names[k]) ∈ toks.zip names :=
      List.mem_of_getElem? (List.getElem?_zip_eq_some.mpr
        ⟨List.getElem?_eq_getElem htok, List.getElem?_eq_getElem hname⟩)
    have hfield := hfields k _ _ (List.getElem?_eq_getElem htok) (List.getElem?_eq_getElem hname)
    rw [Nat.zero_add] at hfield
    have hread := microU_fieldWritten (hacc _ hmem) hfield (by dsimp only; omega)
    simpa using hread

/-- Settles O24: field by field, what was written is what is read. -/
theorem packUnpackRoundTrip : Obligations.PackUnpackRoundTrip := by
  intro s map fmt names n toks hidle htok hlen hnodup hacc hfits
  obtain ⟨out, hpack, -, hunpack⟩ := pack_unpack (program_ok_iff.mpr ⟨htok, hlen, hnodup⟩) hacc hfits
  refine ⟨out, ?_, ?_⟩
  · rw [exec_pack_ok hidle hpack, State.respond_idle hidle]
  · rw [exec_unpack_ok hidle hunpack, State.respond_idle hidle]

end Machine

end Sys2Proof
end

section
/-! A candidate frame (R215 to R229): the parts of its bytes, what is judged of it and in which order, and what each
verdict does to the state. -/

namespace Sys2Proof.Machine

open Sys2Proof.Safety

/-! ## The parts of a frame -/

/-- The header bytes of a frame, marker first (R90, R91). -/
def frameHead : Frame → Bytes
  | .v1 fr => headerBytesV1 fr.len fr.seq fr.sys fr.comp fr.msgid
  | .v2 fr => headerBytesV2 fr.len fr.incompat fr.compat fr.seq fr.sys fr.comp fr.msgid

/-- The bytes of a frame's signature block, none where there is none (R96). -/
def frameTail (fr : Frame) : Bytes := (frameSig fr).elim [] SigBlock.bytes

theorem frameBytes_eq (fr : Frame) :
    frameBytes fr = frameHead fr ++ framePayload fr ++ le 2 (frameTx fr).toNat ++ frameTail fr := by
  cases fr with
  | v1 fr => exact (List.append_nil _).symm
  | v2 fr => exact fr.bytes_eq

theorem frameHead_length (fr : Frame) : (frameHead fr).length = if (frameHeader fr).isV2 then 10 else 6 := by
  cases fr with
  | v1 fr => rfl
  | v2 fr => simp [frameHead, headerBytesV2, frameHeader]

theorem frameHead_ne_nil (fr : Frame) : frameHead fr ≠ [] := by
  cases fr with
  | v1 fr => nofun
  | v2 fr => nofun

theorem coveredBytes_eq (fr : Frame) : coveredBytes fr = (frameHead fr).tail ++ framePayload fr := by
  cases fr <;> rfl

theorem framePayload_length {fr : Frame} (hwf : frameWf fr = true) : (framePayload fr).length = frameLen fr := by
  cases fr with
  | v1 fr => exact FrameV1.wf_iff.mp hwf
  | v2 fr => exact (FrameV2.wf_iff.mp hwf).1

theorem candidateOf_F (fr : Frame) : (candidateOf fr).F = frameBytes fr := by cases fr <;> rfl

theorem candidateOf_hl (fr : Frame) : (candidateOf fr).hl = (frameHead fr).length := by
  cases fr with
  | v1 fr => rfl
  | v2 fr => exact (frameHead_length (.v2 fr)).symm

theorem candidateOf_payload (fr : Frame) : (candidateOf fr).payload = framePayload fr := by cases fr <;> rfl

theorem candidateOf_tx (fr : Frame) : (candidateOf fr).tx = frameTx fr := by cases fr <;> rfl

theorem candidateOf_sig (fr : Frame) : (candidateOf fr).sig = frameSig fr := by cases fr <;> rfl

/-- The covered bytes stand after the marker, up to the end of the payload (R94). -/
theorem slice_coveredBytes {fr : Frame} (hwf : frameWf fr = true) :
    slice (frameBytes fr) 1 ((frameHead fr).length + frameLen fr) = coveredBytes fr := by
  have hlen := framePayload_length hwf
  rw [frameBytes_eq, List.append_assoc, slice_append_left _ (by rw [List.length_append, hlen]),
    slice_covered (frameHead_ne_nil fr) hlen.le, coveredBytes_eq]

/-- The recomputed checksum is that of the covered bytes and the seed (R94, R220). -/
theorem candidateOf_acc {fr : Frame} (hwf : frameWf fr = true) (d : Descriptor) :
    (candidateOf fr).acc d = frameChecksum fr d.crcExtra := by
  rw [Candidate.acc, frameCrc, candidateOf_F, candidateOf_hl, candidateOf_hdr, ← frameLen, slice_coveredBytes hwf]
  rfl

/-- The transmitted checksum is the two bytes after the payload, low byte first (R92). -/
theorem frameTx_toNat {fr : Frame} (hwf : frameWf fr = true) :
    (frameTx fr).toNat = (byteAt (frameBytes fr) ((frameHead fr).length + frameLen fr)).toNat +
      256 * (byteAt (frameBytes fr) ((frameHead fr).length + frameLen fr + 1)).toNat := by
  have hlen : (frameHead fr ++ framePayload fr).length = (frameHead fr).length + frameLen fr := by
    rw [List.length_append, framePayload_length hwf]
  rw [← hlen, ← ule_slice_two (by rw [frameBytes_eq]; simp; omega), frameBytes_eq, List.append_assoc]
  have hslice := slice_append_right (frameHead fr ++ framePayload fr) (le 2 (frameTx fr).toNat ++ frameTail fr) 0 2
  rw [Nat.add_zero] at hslice
  rw [hslice, slice_append_left _ (by simp), slice_zero, List.take_of_length_le (by simp),
    ule_le_of_lt (frameTx fr).isLt]

/-! ## The payload given to UNPACK -/

theorem padPayload_eq (payload : Bytes) (n : Nat) : padPayload payload n = payload ++ zeros (n - payload.length) := by
  unfold padPayload
  split
  · rfl
  · rw [Nat.sub_eq_zero_of_le (Nat.not_lt.mp ‹_›), zeros_zero, List.append_nil]

theorem padPayload_length (payload : Bytes) (n : Nat) : (padPayload payload n).length = max payload.length n := by
  rw [padPayload_eq, List.length_append, zeros_length]
  omega

/-! ## The verdicts -/

section

variable {registry : List Descriptor} {c : Candidate} {d : Descriptor}

theorem judge_crc (hd : lookupIn registry c.hdr.messageId = some d) (hacc : c.acc d ≠ c.tx) :
    judge registry c = .crc (c.acc d) := by
  rw [judge, hd]
  exact if_pos hacc

theorem judge_defect {e : FormatDefect} (hd : lookupIn registry c.hdr.messageId = some d) (hacc : c.acc d = c.tx)
    (hu : unpack (padPayload c.payload d.maxPayloadLen) d.wireFormat d.fields = .error (.defect e)) :
    judge registry c = .defect (c.acc d) e := by
  rw [judge, hd]
  dsimp only
  rw [if_neg (not_not.mpr hacc), hu]

theorem judge_decode (hd : lookupIn registry c.hdr.messageId = some d) (hacc : c.acc d = c.tx)
    (hu : unpack (padPayload c.payload d.maxPayloadLen) d.wireFormat d.fields = .error .decode) :
    judge registry c = .decode (c.acc d) := by
  rw [judge, hd]
  dsimp only
  rw [if_neg (not_not.mpr hacc), hu]

theorem judge_message {m : Mapping} (hd : lookupIn registry c.hdr.messageId = some d) (hacc : c.acc d = c.tx)
    (hu : unpack (padPayload c.payload d.maxPayloadLen) d.wireFormat d.fields = .ok m) :
    judge registry c = .message (c.acc d) ⟨c.hdr, m, c.sig⟩ := by
  rw [judge, hd]
  dsimp only
  rw [if_neg (not_not.mpr hacc), hu]

/-- With a sound descriptor UNPACK has no class (e) error, so the fault is out of the question (R294). -/
theorem unpack_ne_defect {buf : Bytes} {e : FormatDefect} (h : descriptorSound d) :
    unpack buf d.wireFormat d.fields ≠ .error (.defect e) := by
  obtain ⟨toks, hprog⟩ := h
  rw [unpack, hprog]
  dsimp only
  cases unpackTokens buf (toks.zip d.fields) 0 <;> nofun

theorem descriptorSound_of_lookup {id : MsgId} (hsound : registrySound registry) (hd : lookupIn registry id = some d) :
    descriptorSound d :=
  hsound d (List.mem_of_find?_eq_some hd)

end

variable {s : State} {p : ParseRun}

theorem exec_frame_parse {fr : Frame} (hr : s.run = .parse p) :
    exec fr.instr s = .next (runCandidate (candidateOf fr) p s) := by
  rw [exec_frame, frameStep_parse hr]

section

variable {fr : Frame} {d : Descriptor}

theorem lookup_candidateOf (hd : lookupIn s.registry (frameHeader fr).messageId = some d) :
    lookupIn s.registry (candidateOf fr).hdr.messageId = some d := by
  rwa [candidateOf_hdr]

theorem acc_eq_tx (hwf : frameWf fr = true) (hcrc : frameChecksum fr d.crcExtra = frameTx fr) :
    (candidateOf fr).acc d = (candidateOf fr).tx := by
  rw [candidateOf_acc hwf, candidateOf_tx, hcrc]

theorem runCandidate_crc (hwf : frameWf fr = true) (hd : lookupIn s.registry (frameHeader fr).messageId = some d)
    (hcrc : frameChecksum fr d.crcExtra ≠ frameTx fr) :
    runCandidate (candidateOf fr) p s =
      s.countCrcErr.setRun (.parse { p with acc := frameChecksum fr d.crcExtra }) := by
  rw [runCandidate, judge_crc (lookup_candidateOf hd) (by rwa [candidateOf_acc hwf, candidateOf_tx]),
    candidateOf_acc hwf]
  rfl

theorem runCandidate_message {toks : List Token} (hwf : frameWf fr = true)
    (hd : lookupIn s.registry (frameHeader fr).messageId = some d) (hcrc : frameChecksum fr d.crcExtra = frameTx fr)
    (hprog : program d.wireFormat d.fields = .ok toks) (hfits : programSize toks ≤ max (frameLen fr) d.maxPayloadLen) :
    runCandidate (candidateOf fr) p s = s.acceptFrame { p with acc := frameChecksum fr d.crcExtra }
      ⟨frameHeader fr, mappingAt toks d.fields (framePayload fr ++ zeros (d.maxPayloadLen - frameLen fr)),
        frameSig fr⟩ := by
  have hlen := framePayload_length hwf
  have hunpack : unpack (padPayload (candidateOf fr).payload d.maxPayloadLen) d.wireFormat d.fields =
      .ok (mappingAt toks d.fields (framePayload fr ++ zeros (d.maxPayloadLen - frameLen fr))) := by
    rw [candidateOf_payload, unpack_mappingAt hprog (by rwa [padPayload_length, hlen]), padPayload_eq, hlen]
  rw [runCandidate, judge_message (lookup_candidateOf hd) (acc_eq_tx hwf hcrc) hunpack, candidateOf_acc hwf,
    candidateOf_hdr, candidateOf_sig]

/-! ## The statements -/

/-- Settles O26: the checksum of the covered bytes is compared with the two bytes after the payload. -/
theorem checksumMismatchIsCountedAndDropped : Obligations.ChecksumMismatchIsCountedAndDropped := by
  refine ⟨fun s p fr d hr hwf hd hcrc => ?_, fun fr hwf => ?_⟩
  · rw [exec_frame_parse hr, runCandidate_crc hwf hd hcrc]
    rfl
  · have htx := frameTx_toNat hwf
    rwa [frameHead_length] at htx

/-- Settles O27: what the unpack program reads from the padded payload is emitted. -/
theorem validFrameIsEmitted : Obligations.ValidFrameIsEmitted := by
  intro s p fr d toks hr hwf hd hcrc htok hlen hnodup hfits
  rw [exec_frame_parse hr, runCandidate_message hwf hd hcrc (program_ok_iff.mpr ⟨htok, hlen, hnodup⟩) hfits]
  rfl

/-- Settles O28: the unpack program passes the end of the padded payload. -/
theorem shortPayloadIsCountedAndDropped : Obligations.ShortPayloadIsCountedAndDropped := by
  intro s p fr d toks hr hwf hd hcrc htok hlen hnodup hshort
  have hunpack : unpack (padPayload (candidateOf fr).payload d.maxPayloadLen) d.wireFormat d.fields = .error .decode :=
    unpack_short (program_ok_iff.mpr ⟨htok, hlen, hnodup⟩)
      (by rwa [padPayload_length, candidateOf_payload, framePayload_length hwf])
  rw [exec_frame_parse hr, runCandidate, judge_decode (lookup_candidateOf hd) (acc_eq_tx hwf hcrc) hunpack,
    candidateOf_acc hwf]
  rfl

/-- Settles O29: the class (e) error of UNPACK, met inside a PARSE, is the fault. -/
theorem defectiveDescriptorTakesTheFault : Obligations.DefectiveDescriptorTakesTheFault := by
  intro s p fr d cause hr hwf hd hcrc hcause
  obtain ⟨e, hprog, rfl⟩ : ∃ e, program d.wireFormat d.fields = .error e ∧ e.error = cause := by
    obtain ⟨rfl, e, he⟩ | ⟨rfl, toks, htok, hbad⟩ := hcause
    · exact ⟨_, program_format he, rfl⟩
    · exact ⟨_, program_mismatch htok hbad, rfl⟩
  refine ⟨s.takeFault (frameHeader fr).messageId e.error, ?_, rfl, rfl, rfl, rfl, rfl, rfl, rfl, ?_⟩
  · rw [exec_frame_parse hr, runCandidate, judge_defect (lookup_candidateOf hd) (acc_eq_tx hwf hcrc)
      (unpack_defect hprog), candidateOf_hdr]
  · exact (inv_takeFault _ _ _).1

/-- Settles O30: without a defective descriptor the fault is the one outcome that cannot be. -/
theorem eachFrameMovesOneCounter : Obligations.EachFrameMovesOneCounter := by
  intro s p fr hr hsound
  rw [exec_frame_parse hr]
  refine ⟨_, rfl, ?_⟩
  unfold runCandidate
  obtain ⟨-, hj⟩ | ⟨d, hd, ⟨-, hj⟩ | ⟨-, ⟨e, hu, -⟩ | ⟨-, hj⟩ | ⟨m, -, hj⟩⟩⟩ := judge_cases s.registry (candidateOf fr)
  case inr.inr.inl => exact absurd hu (unpack_ne_defect (descriptorSound_of_lookup hsound hd))
  all_goals
    rw [hj]
    refine ⟨?_, ?_, ?_, ?_, ?_, rfl, rfl, rfl, rfl, rfl, rfl, rfl, rfl, _, rfl, rfl, rfl⟩
    · simp [framesCounted, State.acceptFrame]; omega
    all_goals simp [State.acceptFrame]

end

/-- Settles O31: the block is in no byte the checksum covers, and its record goes into the message alone. -/
theorem signatureIsNotVerified : Obligations.SignatureIsNotVerified := by
  intro s p fr b b' hr hwf
  have hwf' : FrameV2.wf { fr with sig := some b' } = true := FrameV2.wf_iff.mpr (FrameV2.wf_iff.mp hwf)
  have hacc (d : Descriptor) : (candidateOf (.v2 { fr with sig := some b' })).acc d =
      (candidateOf (.v2 { fr with sig := some b })).acc d := by
    rw [candidateOf_acc (fr := .v2 { fr with sig := some b' }) hwf',
      candidateOf_acc (fr := .v2 { fr with sig := some b }) hwf]
    rfl
  refine ⟨_, _, exec_frame_parse (fr := .v2 { fr with sig := some b }) hr,
    exec_frame_parse (fr := .v2 { fr with sig := some b' }) hr, ?_⟩
  unfold runCandidate
  obtain ⟨hd, hj⟩ | ⟨d, hd, ⟨hc, hj⟩ | ⟨hc, ⟨e, hu, hj⟩ | ⟨hu, hj⟩ | ⟨m, hu, hj⟩⟩⟩ :=
    judge_cases s.registry (candidateOf (.v2 { fr with sig := some b }))
  · rw [hj, judge_unknownId (c := candidateOf (.v2 { fr with sig := some b' })) hd]
    exact ⟨rfl, rfl, rfl⟩
  all_goals rw [← hacc] at hc hj
  · rw [hj, judge_crc (c := candidateOf (.v2 { fr with sig := some b' })) hd hc]
    exact ⟨rfl, rfl, rfl⟩
  · rw [hj, judge_defect (c := candidateOf (.v2 { fr with sig := some b' })) hd hc hu]
    exact ⟨rfl, rfl, rfl⟩
  · rw [hj, judge_decode (c := candidateOf (.v2 { fr with sig := some b' })) hd hc hu]
    exact ⟨rfl, rfl, rfl⟩
  · rw [hj, judge_message (c := candidateOf (.v2 { fr with sig := some b' })) hd hc hu]
    refine ⟨rfl, ?_, ?_⟩
    · simp [State.acceptFrame, withoutSig, candidateOf, candidateV2, headerV2]
    · simp [State.acceptFrame, withoutSig, runWithoutSig, candidateOf, candidateV2, headerV2]

end Sys2Proof.Machine
end

section
/-! A command as the run of its token program (R115, R130, R150, R223, R233). -/

namespace Sys2Proof.Machine

open Sys2Proof.Safety

/-! ## Runs of the machine -/

theorem run_succ {s t : State} (h : step s = .next t) (n : Nat) :
    Host.Core.run Sys2Proof.core (n + 1) s = Host.Core.run Sys2Proof.core n t := by
  have hstep : Host.Core.step Sys2Proof.core s = .next t := h
  simp only [Host.Core.run, hstep]

theorem run_one {s t : State} (h : step s = .next t) : Host.Core.run Sys2Proof.core 1 s = .next t := run_succ h 0

/-! ## The token at `TI` and the list of tokens and names left -/

section

variable {toks : List Token} {names : List FieldName} {ti : Nat}

theorem getElem?_of_drop_zip_nil (hlen : toks.length = names.length) (h : (toks.zip names).drop ti = []) :
    toks[ti]? = none := by
  have hle := List.drop_eq_nil_iff.mp h
  rw [List.length_zip] at hle
  exact List.getElem?_eq_none (by omega)

theorem of_drop_zip_cons {t : Token} {name : FieldName} {ps : List (Token × FieldName)}
    (h : (toks.zip names).drop ti = (t, name) :: ps) :
    toks[ti]? = some t ∧ names.getD ti [] = name ∧ (toks.zip names).drop (ti + 1) = ps := by
  have hhead : (toks.zip names)[ti]? = some (t, name) := by
    rw [← List.head?_drop, h]
    rfl
  obtain ⟨ht, hn⟩ := List.getElem?_zip_eq_some.mp hhead
  refine ⟨ht, by rw [List.getD, hn]; rfl, ?_⟩
  rw [← List.tail_drop, h]
  rfl

end

/-! ## Unpack programs -/

/-- What an unpack program ends in: its caller's error, or its caller's end. -/
def endUnpack (r : UnpackRun) (s : State) : Option Mapping → State
  | none => raiseDecode r s
  | some m => finishUnpack { r with m := r.m ++ m } s

/-- From any token on, an unpack program runs to what the token loop gives. -/
theorem run_unpack {ps : List (Token × FieldName)} {r : UnpackRun} (s : State) (hlen : r.toks.length = r.names.length)
    (hps : (r.toks.zip r.names).drop r.ti = ps) :
    ∃ n, Host.Core.run Sys2Proof.core n (s.setRun (.unpack r)) =
      .next (endUnpack r s (unpackTokens r.buf ps r.cur)) := by
  induction ps generalizing r with
  | nil =>
    have hend : finishUnpack r (s.setRun (.unpack r)) = endUnpack r s (some []) := by
      rw [endUnpack, List.append_nil]
      rfl
    exact ⟨1, (run_one (step_unpack_end (State.setRun_run _ _) (getElem?_of_drop_zip_nil hlen hps))).trans
      (congrArg _ hend)⟩
  | cons p ps ih =>
    obtain ⟨t, name⟩ := p
    obtain ⟨ht, hname, hrest⟩ := of_drop_zip_cons hps
    have hstep := step_unpack_token (State.setRun_run (.unpack r) s) ht
    rw [exec_unpack_token] at hstep
    rw [unpackTokens]
    rcases Nat.lt_or_ge r.buf.length (r.cur + t.size) with hpast | hfits
    · rw [unpackStep_past_end (State.setRun_run _ _) hpast] at hstep
      rw [if_pos hpast]
      exact ⟨1, run_one hstep⟩
    · rw [unpackStep_fits (State.setRun_run _ _) hfits, hname] at hstep
      obtain ⟨n, hn⟩ := ih (r := { r with
        m := r.m ++ [(name, microU t.code r.buf r.cur t.count)], cur := r.cur + t.size, ti := r.ti + 1 }) hlen hrest
      refine ⟨n + 1, (run_succ hstep n).trans (hn.trans (congrArg _ ?_))⟩
      rw [if_neg (Nat.not_lt.mpr hfits)]
      dsimp only
      cases unpackTokens r.buf ps (r.cur + t.size) with
      | none => rfl
      | some m =>
        simp only [endUnpack, List.append_assoc, List.cons_append, List.nil_append]
        rfl

/-! ## Pack programs -/

/-- What a pack program ends in: its caller's end, or the error of the loop. -/
def endPack (r : PackRun) (s : State) : Except PackError (Bytes × Nat) → State
  | .ok (out, cur) => finishPack { r with out := out, cur := cur } s
  | .error e => s.respond (.error e.error)

/-- From any token on, a pack program runs to what the token loop gives. -/
theorem run_pack {ps : List (Token × FieldName)} {r : PackRun} (s : State) (hlen : r.toks.length = r.names.length)
    (hps : (r.toks.zip r.names).drop r.ti = ps) :
    ∃ n, Host.Core.run Sys2Proof.core n (s.setRun (.pack r)) =
      .next (endPack r s (packTokens r.map ps r.out r.cur)) := by
  induction ps generalizing r with
  | nil =>
    exact ⟨1, run_one (step_pack_end (State.setRun_run _ _) (getElem?_of_drop_zip_nil hlen hps))⟩
  | cons p ps ih =>
    obtain ⟨t, name⟩ := p
    obtain ⟨ht, hname, hrest⟩ := of_drop_zip_cons hps
    have hstep := step_pack_token (State.setRun_run (.pack r) s) ht
    rw [packTokens]
    rcases Nat.lt_or_ge r.out.length (r.cur + t.size) with hpast | hfits
    · rw [exec_pack_token_past_end (State.setRun_run _ _) hpast] at hstep
      rw [if_pos hpast]
      exact ⟨1, run_one hstep⟩
    · rw [exec_pack_token_eq (State.setRun_run _ _) hfits, hname] at hstep
      rw [if_neg (Nat.not_lt.mpr hfits)]
      cases hout : packField (microP t.code) r.out r.cur t.count (fieldValue r.map name) with
      | none => rw [hout] at hstep; exact ⟨1, run_one hstep⟩
      | some out =>
        rw [hout] at hstep
        obtain ⟨n, hn⟩ := ih (r := { r with out := out, cur := r.cur + t.size, ti := r.ti + 1 }) hlen hrest
        refine ⟨n + 1, (run_succ hstep n).trans (hn.trans (congrArg _ ?_))⟩
        dsimp only
        cases packTokens r.map ps out (r.cur + t.size) <;> rfl

/-! ## The four callers -/

theorem exec_unpack_program {s : State} (hidle : s.run = .idle) {buf fmt : Bytes} {names : List FieldName}
    {toks : List Token} (h : program fmt names = .ok toks) :
    exec (.unpack buf fmt names) s =
      .next (endUnpack (startUnpack toks buf names .host) s (unpackTokens buf (toks.zip names) 0)) := by
  cases hloop : unpackTokens buf (toks.zip names) 0 with
  | none =>
    have hunpack : unpack buf fmt names = .error .decode := by simp only [unpack, h, hloop]
    exact exec_unpack_error hidle hunpack
  | some m =>
    have hunpack : unpack buf fmt names = .ok m := by simp only [unpack, h, hloop]
    exact exec_unpack_ok hidle hunpack

theorem exec_pack_program {s : State} (hidle : s.run = .idle) {map : Mapping} {fmt buf : Bytes}
    {names : List FieldName} {off : Nat} {toks : List Token} (h : program fmt names = .ok toks) :
    exec (.pack map fmt names buf off) s =
      .next (endPack (startPack map toks names buf off .host) s (packTokens map (toks.zip names) buf off)) := by
  cases hloop : packTokens map (toks.zip names) buf off with
  | error e => exact exec_pack_error hidle ((pack_program h).trans hloop)
  | ok x => exact exec_pack_ok hidle ((pack_program h).trans hloop)

theorem exec_encode_program {s : State} (hidle : s.run = .idle) {req : EncodeRequest} {d : Descriptor}
    {toks : List Token} (henc : encodable s.registry req = .ok d) (h : program d.wireFormat d.fields = .ok toks) :
    exec (.encode req) s = .next (endPack (startEncode req d toks) s
      (packTokens req.payload (toks.zip d.fields) (zeros d.maxPayloadLen) 0)) := by
  cases hloop : packTokens req.payload (toks.zip d.fields) (zeros d.maxPayloadLen) 0 with
  | error e =>
    have hencode : encodeFrame s.registry req = .error e.error := by
      simp only [encodeFrame, henc, pack_program h, hloop]
    exact exec_encode_error hidle hencode
  | ok x =>
    have hencode : encodeFrame s.registry req = .ok (finishFrame req d x.1) := by
      simp only [encodeFrame, henc, pack_program h, hloop]
    exact exec_encode_ok hidle hencode

theorem exec_frame_program {s : State} {p : ParseRun} {fr : Frame} {d : Descriptor} {toks : List Token}
    (hr : s.run = .parse p) (hd : lookupIn s.registry (frameHeader fr).messageId = some d)
    (hacc : (candidateOf fr).acc d = frameTx fr) (h : program d.wireFormat d.fields = .ok toks) :
    exec fr.instr s = .next (endUnpack (startFrameUnpack (candidateOf fr) d toks p) s
      (unpackTokens (padPayload (candidateOf fr).payload d.maxPayloadLen) (toks.zip d.fields) 0)) := by
  have hd' := lookup_candidateOf hd
  have htx : (candidateOf fr).acc d = (candidateOf fr).tx := hacc.trans (candidateOf_tx fr).symm
  rw [exec_frame_parse hr, runCandidate]
  cases hloop : unpackTokens (padPayload (candidateOf fr).payload d.maxPayloadLen) (toks.zip d.fields) 0 with
  | none => rw [judge_decode hd' htx (by simp only [unpack, h, hloop])]; rfl
  | some m => rw [judge_message hd' htx (m := m) (by simp only [unpack, h, hloop])]; rfl

/-- Settles O50: each caller's command ends in what its token loop gives, and so does the run of its program. -/
theorem tokenProgramsAreTheirTokens : Obligations.TokenProgramsAreTheirTokens := by
  refine ⟨fun s buf fmt names toks hidle hprog => ?_, fun s map fmt names buf off toks hidle hprog => ?_,
    fun s req d toks hidle henc hprog => ?_, fun s p fr d toks hr hd hacc hprog => ?_⟩
  all_goals obtain ⟨-, hlen, -⟩ := program_ok_iff.mp hprog
  · obtain ⟨n, hn⟩ := run_unpack (r := startUnpack toks buf names .host) s hlen rfl
    exact ⟨n, hn.trans (exec_unpack_program hidle hprog).symm⟩
  · obtain ⟨n, hn⟩ := run_pack (r := startPack map toks names buf off .host) s hlen rfl
    exact ⟨n, hn.trans (exec_pack_program hidle hprog).symm⟩
  · obtain ⟨n, hn⟩ := run_pack (r := startEncode req d toks) s hlen rfl
    exact ⟨n, hn.trans (exec_encode_program hidle henc hprog).symm⟩
  · obtain ⟨n, hn⟩ := run_unpack (r := startFrameUnpack (candidateOf fr) d toks p) s hlen rfl
    exact ⟨n, hn.trans (exec_frame_program hr hd hacc hprog).symm⟩

end Sys2Proof.Machine
end

section
/-! A whole PARSE: as the run of its micro-steps, what it answers with a sound Registry, and the empty chunk
(R195, R207, R210, R212, R274, R275). -/

namespace Sys2Proof.Machine

open Sys2Proof.Safety

/-! ## The run of the micro-steps -/

/-- The parser's loop is a run of the machine. -/
theorem exists_run_eq_parseLoop (fuel : Nat) (s : State) :
    ∃ n, Host.Core.run Sys2Proof.core n s = .next (parseLoop fuel s) := by
  induction fuel generalizing s with
  | zero => exact ⟨0, rfl⟩
  | succ fuel ih =>
    cases hr : s.run with
    | parse p =>
      obtain ⟨n, hn⟩ := ih (parseMicro p s)
      exact ⟨n + 1, by rw [run_succ (step_parse hr), hn, parseLoop_parse fuel hr]⟩
    | idle => exact ⟨0, by rw [parseLoop_idle _ hr]; rfl⟩
    | unpack r => exact ⟨0, by rw [parseLoop, hr]; rfl⟩
    | pack r => exact ⟨0, by rw [parseLoop, hr]; rfl⟩

/-- Settles O36: PARSE is the loop, and its fuel is enough. -/
theorem parseIsTheRunOfItsMicroSteps : Obligations.ParseIsTheRunOfItsMicroSteps := by
  intro s chunk hidle hfault
  obtain ⟨n, hn⟩ := exists_run_eq_parseLoop ((s.resid ++ chunk).length + 1) (s.setRun (.parse (startParse chunk s)))
  exact ⟨n, parseAll chunk s, exec_parse chunk hidle hfault, (parseAll_completes chunk s).1, hn⟩

/-! ## What a PARSE answers -/

/-- With a sound Registry a candidate frame is counted, and emitted where it is valid. -/
theorem runCandidate_sound {c : Candidate} {p : ParseRun} {s : State} (hsound : registrySound s.registry) :
    ∃ q ms, (runCandidate c p s).run = .parse q ∧ q.out = p.out ++ ms ∧
      (runCandidate c p s).msg = s.msg ++ ms ∧ (runCandidate c p s).pkts = s.pkts + ms.length ∧
      (runCandidate c p s).rsp = s.rsp ∧ (runCandidate c p s).fault = s.fault ∧
      (runCandidate c p s).registry = s.registry ∧ (runCandidate c p s).free = s.free := by
  have hnil (L : List Message) : L = L ++ [] := (List.append_nil L).symm
  unfold runCandidate
  obtain ⟨-, hj⟩ | ⟨d, hd, ⟨-, hj⟩ | ⟨-, ⟨e, hu, -⟩ | ⟨-, hj⟩ | ⟨m, -, hj⟩⟩⟩ := judge_cases s.registry c
  · rw [hj]; exact ⟨p, [], rfl, hnil _, hnil _, rfl, rfl, rfl, rfl, rfl⟩
  · rw [hj]; exact ⟨{ p with acc := c.acc d }, [], rfl, hnil _, hnil _, rfl, rfl, rfl, rfl, rfl⟩
  · exact absurd hu (unpack_ne_defect (descriptorSound_of_lookup hsound hd))
  · rw [hj]; exact ⟨{ p with acc := c.acc d }, [], rfl, hnil _, hnil _, rfl, rfl, rfl, rfl, rfl⟩
  · rw [hj]; exact ⟨_, [⟨c.hdr, m, c.sig⟩], rfl, rfl, rfl, rfl, rfl, rfl, rfl, rfl⟩

/-- What has been answered and notified between the start of a PARSE and a state in or at the end of it: `OUT`, each
message once, counted in `PKTS`. -/
structure Emitted (s u : State) : Prop where
  fault : u.fault = s.fault
  registry : u.registry = s.registry
  free : u.free = s.free
  out : ∃ out, u.msg = s.msg ++ out ∧ u.pkts = s.pkts + out.length ∧
    ((∃ p, u.run = .parse p ∧ p.out = out ∧ u.rsp = s.rsp) ∨ u.run = .idle ∧ u.rsp = s.rsp ++ [.messages out])

theorem emitted_parseMicro {s u : State} {p : ParseRun} (hsound : registrySound s.registry) (hr : u.run = .parse p)
    (h : Emitted s u) : Emitted s (parseMicro p u) := by
  obtain ⟨hfault, hregistry, hfree, out, hmsg, hpkts, ⟨p', hp', hout, hrsp⟩ | ⟨hidle, -⟩⟩ := h
  · obtain rfl := Run.parse.inj (hp'.symm.trans hr)
    obtain ⟨resid, -, h⟩ | ⟨h, -⟩ | ⟨fr, total, -, h⟩ := parseMicro_cases p' u
    · rw [h]
      exact ⟨hfault, hregistry, hfree, out, hmsg, hpkts, .inr ⟨rfl, by rw [← hrsp, ← hout]; rfl⟩⟩
    · rw [h]
      exact ⟨hfault, hregistry, hfree, out, hmsg, hpkts, .inl ⟨_, rfl, hout, hrsp⟩⟩
    · obtain ⟨q, ms, hrun, hq, hmsg', hpkts', hrsp', hfault', hregistry', hfree'⟩ :=
        runCandidate_sound (c := candidateOf fr) (p := p'.advance total) (s := u) (hregistry ▸ hsound)
      rw [h]
      refine ⟨hfault'.trans hfault, hregistry'.trans hregistry, hfree'.trans hfree, out ++ ms, ?_, ?_,
        .inl ⟨q, hrun, hq.trans (congrArg (· ++ ms) hout), hrsp'.trans hrsp⟩⟩
      · rw [hmsg', hmsg, List.append_assoc]
      · rw [hpkts', hpkts, List.length_append, Nat.add_assoc]
  · rw [hr] at hidle; cases hidle

/-- Settles O37: every micro-step keeps the account of what was emitted, and the last one answers it. -/
theorem parseReturnsWhatItEmits : Obligations.ParseReturnsWhatItEmits := by
  intro s chunk hidle hfault hsound
  have hstart : Emitted s (s.setRun (.parse (startParse chunk s))) :=
    ⟨rfl, rfl, rfl, [], (List.append_nil _).symm, rfl, .inl ⟨_, rfl, rfl, rfl⟩⟩
  obtain ⟨hfault', hregistry, hfree, out, hmsg, hpkts, hend⟩ : Emitted s (parseAll chunk s) :=
    parseLoop_induction (fun _ _ hr h => emitted_parseMicro hsound hr h) _ hstart
  obtain ⟨hidle', -⟩ := parseAll_completes chunk s
  have hnofault := hfault'.trans hfault
  have hle := parseAll_faultless hnofault
  have hhost := keepsHost_parseAll chunk s
  refine ⟨_, out, exec_parse chunk hidle hfault, hnofault, hidle', ?_, hmsg, hpkts, hle.trash, hle.crcerr, hle.unkmsg,
    hle.parseerr, hhost.crc, hhost.cmd, hregistry, hfree⟩
  obtain ⟨p, hp, -⟩ | ⟨-, hrsp⟩ := hend
  · rw [hidle'] at hp; cases hp
  · exact hrsp

/-! ## The empty chunk -/

/-- A residual is a wait (R209). -/
theorem decodeFrame_residOk {r : Bytes} (h : residOk r) (hne : r ≠ []) :
    decodeFrame r = .error .headerWait ∨ decodeFrame r = .error .frameWait := by
  obtain hnil | ⟨hm, hshort⟩ | ⟨hm, hshort⟩ := h
  · exact absurd hnil hne
  · rcases Nat.lt_or_ge r.length Config.hlV1 with hlt | hge
    · exact .inl (decodeFrame_markV1_short hm hlt)
    · exact .inr (by rw [decodeFrame_markV1 hm hge, if_pos (hshort.resolve_left (Nat.not_lt.mpr hge))])
  · rcases Nat.lt_or_ge r.length Config.hlV2 with hlt | hge
    · exact .inl (decodeFrame_markV2_short hm hlt)
    · exact .inr (by rw [decodeFrame_markV2 hm hge, if_pos (hshort.resolve_left (Nat.not_lt.mpr hge))])

/-- Where the bytes left are a residual, the micro-step ends the command and leaves them. -/
theorem parseMicro_residOk {p : ParseRun} {s : State} (h : residOk p.rest) : parseMicro p s = endParse p.rest p s := by
  by_cases hne : p.rest = []
  · rw [parseMicro, parseAction, hne]
    rfl
  · obtain hd | hd := decodeFrame_residOk h hne <;> rw [parseMicro, parseAction, hd]

/-- Settles O39: the first micro-step finds the residual and ends. -/
theorem emptyChunkChangesNothing : Obligations.EmptyChunkChangesNothing := by
  intro s hidle hfault hresid
  have hrest : (startParse [] s).rest = s.resid := List.append_nil _
  rw [exec_parse [] hidle hfault, parseAll, parseLoop_parse _ (State.setRun_run _ _),
    parseMicro_residOk (by rwa [hrest]), parseLoop_idle _ rfl, hrest]
  rw [← State.respond_idle hidle]
  rfl

end Sys2Proof.Machine
end

section
/-! Chunk invariance (R208). Two runs of the parser whose unread bytes and messages correspond stay in step: what a
micro-step does depends on the bytes at the scan cursor and the Registry alone (R195, R229). -/

namespace Sys2Proof.Machine

open Sys2Proof.Safety

/-! ## A PARSE as a run that ends -/

/-- The micro-steps lead from `s` to the idle state `t`. -/
inductive ParsesTo : State → State → Prop
  | done {s : State} (h : s.run = .idle) : ParsesTo s s
  | micro {s t : State} {p : ParseRun} (hr : s.run = .parse p) (h : ParsesTo (parseMicro p s) t) : ParsesTo s t

theorem ParsesTo.eq {s t u : State} (h : ParsesTo s t) (h' : ParsesTo s u) : t = u := by
  induction h with
  | done hidle =>
    cases h' with
    | done => rfl
    | micro hr => rw [hidle] at hr; cases hr
  | micro hr _ ih =>
    cases h' with
    | done hidle => rw [hidle] at hr; cases hr
    | micro hr' h' =>
      obtain rfl := Run.parse.inj (hr.symm.trans hr')
      exact ih h'

theorem ParsesTo.fault_eq_none {s t : State} (h : ParsesTo s t) (ht : t.fault = none) : s.fault = none := by
  induction h with
  | done => exact ht
  | micro _ _ ih => exact (parseMicro_faultless (ih ht)).1

theorem parsesTo_parseLoop {fuel : Nat} {s : State} (h : (parseLoop fuel s).run = .idle) :
    ParsesTo s (parseLoop fuel s) := by
  induction fuel generalizing s with
  | zero => exact .done h
  | succ fuel ih =>
    cases hr : s.run with
    | parse p =>
      rw [parseLoop_parse fuel hr] at h ⊢
      exact .micro hr (ih h)
    | idle =>
      rw [parseLoop_idle _ hr]
      exact .done hr
    | unpack r => rw [parseLoop, hr] at h; rw [hr] at h; cases h
    | pack r => rw [parseLoop, hr] at h; rw [hr] at h; cases h

theorem parsesTo_parseAll (chunk : Bytes) (s : State) :
    ParsesTo (s.setRun (.parse (startParse chunk s))) (parseAll chunk s) :=
  parsesTo_parseLoop (parseAll_completes chunk s).1

/-! ## What is at the cursor stays there when bytes follow -/

theorem decodeFrame_ok_append {bs : Bytes} {fr : Frame} {total : Nat} (h : decodeFrame bs = .ok (fr, total))
    (tail : Bytes) : decodeFrame (bs ++ tail) = .ok (fr, total) := by
  obtain ⟨hwf, hbytes⟩ := decodeFrame_ok_bytes h
  have hlen : (frameBytes fr).length = total := by
    rw [hbytes, List.length_take, Nat.min_eq_left (decodeFrame_total h).2]
  have hsplit : bs ++ tail = frameBytes fr ++ (bs.drop total ++ tail) := by
    rw [hbytes, ← List.append_assoc, List.take_append_drop]
  rw [hsplit, decodeFrame_frameBytes_append hwf, hlen]

theorem decodeFrame_notMarker_iff {bs : Bytes} :
    decodeFrame bs = .error .notMarker ↔ bs ≠ [] ∧ byteAt bs 0 ≠ Config.markV1 ∧ byteAt bs 0 ≠ Config.markV2 := by
  refine ⟨fun h => ⟨?_, fun hm => ?_, fun hm => ?_⟩, fun ⟨hne, h1, h2⟩ => decodeFrame_notMarker hne h1 h2⟩
  · rintro rfl
    cases h
  · rcases Nat.lt_or_ge bs.length Config.hlV1 with hlt | hge
    · rw [decodeFrame_markV1_short hm hlt] at h; cases h
    · rw [decodeFrame_markV1 hm hge] at h; split at h <;> cases h
  · rcases Nat.lt_or_ge bs.length Config.hlV2 with hlt | hge
    · rw [decodeFrame_markV2_short hm hlt] at h; cases h
    · rw [decodeFrame_markV2 hm hge] at h; split at h <;> cases h

theorem decodeFrame_empty {bs : Bytes} (h : decodeFrame bs = .error .empty) : bs = [] := by
  by_contra hne
  by_cases h1 : byteAt bs 0 = Config.markV1
  · rcases Nat.lt_or_ge bs.length Config.hlV1 with hlt | hge
    · rw [decodeFrame_markV1_short h1 hlt] at h; cases h
    · rw [decodeFrame_markV1 h1 hge] at h; split at h <;> cases h
  · by_cases h2 : byteAt bs 0 = Config.markV2
    · rcases Nat.lt_or_ge bs.length Config.hlV2 with hlt | hge
      · rw [decodeFrame_markV2_short h2 hlt] at h; cases h
      · rw [decodeFrame_markV2 h2 hge] at h; split at h <;> cases h
    · rw [decodeFrame_notMarker hne h1 h2] at h; cases h

theorem decodeFrame_notMarker_append {bs : Bytes} (h : decodeFrame bs = .error .notMarker) (tail : Bytes) :
    decodeFrame (bs ++ tail) = .error .notMarker := by
  obtain ⟨hne, h1, h2⟩ := decodeFrame_notMarker_iff.mp h
  have hfirst : byteAt (bs ++ tail) 0 = byteAt bs 0 := byteAt_append_left (List.length_pos_iff.mpr hne)
  exact decodeFrame_notMarker (by simp [hne]) (by rwa [hfirst]) (by rwa [hfirst])

/-! ## A micro-step from the bytes at its cursor alone -/

/-- `s` in another PARSE: with another thing running, another residual and other responses before it. -/
def State.placed (run : Run) (resid : Bytes) (rsp : List Response) (s : State) : State :=
  { s with run := run, resid := resid, rsp := rsp }

/-- What a candidate frame does without a fault: a change of counters and notifications that depends on the Registry
alone, and messages added to `OUT` (R229). -/
theorem runCandidate_uniform (c : Candidate) (s : State) :
    (∀ p run resid rsp, (runCandidate c p (s.placed run resid rsp)).fault ≠ none) ∨
    ∃ (s' : State) (ms : List Message) (acc : Option Crc), ∀ p run resid rsp,
      runCandidate c p (s.placed run resid rsp) =
        s'.placed (.parse { p with acc := acc.getD p.acc, out := p.out ++ ms }) resid rsp := by
  cases hj : judge s.registry c with
  | unknownId =>
    exact .inr ⟨s.countUnkMsg, [], none, fun p _ _ _ => by
      simp only [runCandidate, State.placed, hj, List.append_nil]; rfl⟩
  | crc acc =>
    exact .inr ⟨s.countCrcErr, [], some acc, fun p _ _ _ => by
      simp only [runCandidate, State.placed, hj, List.append_nil]; rfl⟩
  | defect acc d =>
    refine .inl fun p _ _ _ => ?_
    simp only [runCandidate, State.placed, hj]
    nofun
  | decode acc =>
    exact .inr ⟨s.countParseErr, [], some acc, fun p _ _ _ => by
      simp only [runCandidate, State.placed, hj, List.append_nil]; rfl⟩
  | message acc m =>
    exact .inr ⟨s.countPkt.notify m, [m], some acc, fun p _ _ _ => by
      simp only [runCandidate, State.placed, hj]; rfl⟩

/-- All a micro-step can do, in terms of the bytes left: it ends the command wherever exactly these bytes are left, or
takes the fault, or does the same wherever these bytes are followed by others. -/
theorem parseMicro_uniform (p : ParseRun) (s : State) :
    (∀ q u, q.rest = p.rest → parseMicro q u = endParse q.rest q u) ∨
    (parseMicro p s).fault ≠ none ∨
    ∃ (s' : State) (n : Nat) (ms : List Message) (acc : Option Crc), n ≤ p.rest.length ∧
      ∀ q tail run resid rsp, q.rest = p.rest ++ tail →
        parseMicro q (s.placed run resid rsp) =
          s'.placed (.parse { q with sc := q.sc + n, acc := acc.getD q.acc, out := q.out ++ ms }) resid rsp := by
  cases hd : decodeFrame p.rest with
  | error e =>
    cases e with
    | empty =>
      have hnil : p.rest = [] := decodeFrame_empty hd
      exact .inl fun q u hq => parseMicro_residOk (.inl (hq.trans hnil))
    | headerWait => exact .inl fun q u hq => parseMicro_residOk (hq ▸ residOk_of_wait (.inl hd))
    | frameWait => exact .inl fun q u hq => parseMicro_residOk (hq ▸ residOk_of_wait (.inr hd))
    | notMarker =>
      refine .inr (.inr ⟨s.countTrash, 1, [], none, ?_, fun q tail run resid rsp hq => ?_⟩)
      · exact List.length_pos_iff.mpr (decodeFrame_notMarker_iff.mp hd).1
      · rw [parseMicro, parseAction, hq, decodeFrame_notMarker_append hd, List.append_nil]
        rfl
  | ok x =>
    obtain ⟨fr, total⟩ := x
    have hmicro (q : ParseRun) (tail : Bytes) (u : State) (hq : q.rest = p.rest ++ tail) :
        parseMicro q u = runCandidate (candidateOf fr) (q.advance total) u := by
      rw [parseMicro, parseAction, hq, decodeFrame_ok_append hd]
    obtain hfault | ⟨s', ms, acc, hrun⟩ := runCandidate_uniform (candidateOf fr) s
    · refine .inr (.inl ?_)
      rw [hmicro p [] s (List.append_nil _).symm]
      exact hfault (p.advance total) s.run s.resid s.rsp
    · refine .inr (.inr ⟨s', total, ms, acc, (decodeFrame_total hd).2, fun q tail run resid rsp hq => ?_⟩)
      rw [hmicro q tail _ hq, hrun]
      rfl

/-! ## Two runs in step -/

/-- A run that ends without a fault, beside a second one whose unread bytes are those of the first and a `tail`, and
whose `OUT` is that of the first after `before`: the second comes to stand where the first one ends, with the first
one's residual and the `tail` unread. -/
theorem ParsesTo.inStep {x t : State} {px py : ParseRun} {tail : Bytes} {before : List Message} (h : ParsesTo x t)
    (ht : t.fault = none) (hx : x.run = .parse px) (hrest : py.rest = px.rest ++ tail)
    (hout : py.out = before ++ px.out) (resid : Bytes) (rsp : List Response) :
    ∃ x' p q, t = endParse p.rest p x' ∧ x'.rsp = x.rsp ∧ q.rest = p.rest ++ tail ∧ q.out = before ++ p.out ∧
      (∀ o u, o.rest = p.rest → parseMicro o u = endParse o.rest o u) ∧
      ∀ u, ParsesTo (x'.placed (.parse q) resid rsp) u → ParsesTo (x.placed (.parse py) resid rsp) u := by
  induction h generalizing px py with
  | done hidle => rw [hx] at hidle; cases hidle
  | @micro s t p hr h ih =>
    obtain rfl := Run.parse.inj (hr.symm.trans hx)
    obtain hend | hfault | ⟨s', n, ms, acc, hn, hmicro⟩ := parseMicro_uniform p s
    · have hmicro := hend p s rfl
      rw [hmicro] at h
      obtain rfl : endParse p.rest p s = t := (ParsesTo.done rfl).eq h
      exact ⟨s, p, py, rfl, rfl, hrest, hout, hend, fun _ hu => hu⟩
    · exact absurd (h.fault_eq_none ht) hfault
    · have hfirst : parseMicro p s =
          s'.placed (.parse { p with sc := p.sc + n, acc := acc.getD p.acc, out := p.out ++ ms }) s.resid s.rsp :=
        hmicro p [] s.run s.resid s.rsp (List.append_nil _).symm
      have hsecond := hmicro py tail (.parse py) resid rsp hrest
      have hrest' : py.w.drop (py.sc + n) = p.w.drop (p.sc + n) ++ tail := by
        rw [← List.drop_drop, ← List.drop_drop]
        exact (congrArg (List.drop n) hrest).trans (List.drop_append_of_le_length hn)
      have hout' : py.out ++ ms = before ++ (p.out ++ ms) := by rw [hout, List.append_assoc]
      rw [hfirst] at ih
      obtain ⟨x', q, q', hend, hrsp, hq, hq', hstop, hinStep⟩ :=
        ih (py := { py with sc := py.sc + n, acc := acc.getD py.acc, out := py.out ++ ms }) ht rfl hrest' hout'
      refine ⟨x', q, q', hend, hrsp, hq, hq', hstop, fun u hu => .micro rfl ?_⟩
      rw [hsecond]
      exact hinStep u hu

/-- Settles O38: the joined PARSE is in step with the first one to its residual, and from there with the second. -/
theorem parseIsChunkInvariant : Obligations.ParseIsChunkInvariant := by
  intro s t u A B hidle hfault hA htfault hB hufault
  obtain rfl := Host.Outcome.next.inj ((exec_parse A hidle hfault).symm.trans hA)
  have htidle := (parseAll_completes A s).1
  obtain rfl := Host.Outcome.next.inj ((exec_parse B htidle htfault).symm.trans hB)
  obtain ⟨x, p, q, hend, hrsp, hrest, hout, -, hjoined⟩ := (parsesTo_parseAll A s).inStep (tail := B) (before := [])
    (py := startParse (A ++ B) s) htfault rfl (by simp [ParseRun.rest, startParse]) rfl s.resid s.rsp
  have hrest' : q.rest = (startParse B (parseAll A s)).rest ++ [] := by
    rw [hrest, hend, List.append_nil]
    rfl
  obtain ⟨y, o, r, hend', hrsp', hlast, hout', hstop, hjoined'⟩ := (parsesTo_parseAll B (parseAll A s)).inStep
    (tail := []) (before := p.out) (py := q) hufault rfl hrest' (hout.trans (List.append_nil _).symm) s.resid s.rsp
  have hstart : x.placed (.parse q) s.resid s.rsp =
      ((parseAll A s).setRun (.parse (startParse B (parseAll A s)))).placed (.parse q) s.resid s.rsp := by
    rw [hend]
    rfl
  have hfinal : parseMicro r (y.placed (.parse r) s.resid s.rsp) =
      { parseAll B (parseAll A s) with rsp := s.rsp ++ [.messages (p.out ++ o.out)] } := by
    rw [hstop r _ (hlast.trans (List.append_nil _)), hend', hlast, List.append_nil, ← hout']
    rfl
  have hall : ParsesTo (s.setRun (.parse (startParse (A ++ B) s)))
      { parseAll B (parseAll A s) with rsp := s.rsp ++ [.messages (p.out ++ o.out)] } := by
    refine hjoined _ (hstart ▸ hjoined' _ (.micro rfl ?_))
    rw [hfinal]
    exact .done (parseAll_completes B (parseAll A s)).1
  refine ⟨p.out, o.out, ?_, ?_, ?_⟩
  · exact (congrArg State.rsp hend).trans (congrArg (· ++ [Response.messages p.out]) hrsp)
  · exact (congrArg State.rsp hend').trans (congrArg (· ++ [Response.messages o.out]) hrsp')
  · rw [exec_parse (A ++ B) hidle hfault, (parsesTo_parseAll (A ++ B) s).eq hall]

end Sys2Proof.Machine
end

section
/-! A PARSE of one whole frame, and of a frame with one byte changed (R227). -/

namespace Sys2Proof

open Sys2Proof.Machine Sys2Proof.Safety

/-! ## One byte changed -/

theorem byteAt_set_ne {F : Bytes} {pos i : Nat} {b : Byte} (h : i ≠ pos) : byteAt (F.set pos b) i = byteAt F i := by
  simp [byteAt, List.getD, h.symm]

theorem byteAt_set_self {F : Bytes} {pos : Nat} {b : Byte} (h : pos < F.length) : byteAt (F.set pos b) pos = b := by
  simp [byteAt, List.getD, h]

theorem slice_set_inside {F : Bytes} {pos i j : Nat} {b : Byte} (h : i ≤ pos) :
    slice (F.set pos b) i j = (slice F i j).set (pos - i) b := by
  rw [slice, slice, List.drop_set, if_neg (Nat.not_lt.mpr h), List.take_set]

theorem slice_set_outside {F : Bytes} {pos i j : Nat} {b : Byte} (h : pos < i ∨ j ≤ pos) :
    slice (F.set pos b) i j = slice F i j := by
  rcases Nat.lt_or_ge pos i with hlt | hge
  · rw [slice, slice, List.drop_set_of_lt hlt]
  · rw [slice_set_inside hge, List.set_eq_of_length_le (by rw [slice_length]; omega)]

namespace Machine

/-- One changed byte changes the accumulator at the end (R181). -/
theorem mixAll_set_ne {c : Crc} {B : Bytes} {k : Nat} {b : Byte} (hk : k < B.length) (hne : b ≠ byteAt B k) :
    mixAll c (B.set k b) ≠ mixAll c B := by
  have hget : byteAt B k = B[k] := List.getD_eq_getElem _ _ hk
  have hsplit : B = B.take k ++ B[k] :: B.drop (k + 1) := by
    rw [← List.drop_eq_getElem_cons, List.take_append_drop]
  intro h
  rw [List.set_eq_take_append_cons_drop, if_pos hk] at h
  nth_rw 3 [hsplit] at h
  rw [mixAll_append, mixAll_append] at h
  exact hne ((mix_injective_right (mixAll_injective h)).trans hget.symm)

end Machine

/-! ## A frame as its bytes -/

/-- The well-formed frame of a byte sequence is the fields at their offsets, wherever the header declares the length of
the sequence. -/
theorem frame_of_bytes_iff {fr : Frame} {F : Bytes} :
    frameWf fr = true ∧ frameBytes fr = F ↔
      byteAt F 0 = Config.markV1 ∧ F.length = totalV1 F ∧ fr = .v1 (fieldsV1 F) ∨
      byteAt F 0 = Config.markV2 ∧ F.length = totalV2 F ∧ fr = .v2 (fieldsV2 F) := by
  have hdec : frameWf fr = true ∧ frameBytes fr = F ↔ decodeFrame F = .ok (fr, F.length) := by
    refine ⟨?_, fun h => ?_⟩
    · rintro ⟨hwf, rfl⟩
      have h := decodeFrame_frameBytes_append hwf []
      rwa [List.append_nil] at h
    · have h' := decodeFrame_ok_bytes h
      rwa [List.take_length] at h'
  rw [hdec, decodeFrame_ok_iff, List.take_length]
  simp

namespace Machine

section

variable {fr : Frame} {pos : Nat} {b : Byte}

/-- A frame with one byte changed that is not the marker, `len`, the signed bit or in the id is a frame of the same
version, length and id. -/
theorem exists_frame_set (hwf : frameWf fr = true) (hpos : 2 ≤ pos)
    (hv1 : (frameHeader fr).isV2 = false → pos ≠ 5)
    (hv2 : (frameHeader fr).isV2 = true →
      (pos = 2 → b.getLsbD 0 = (byteAt (frameBytes fr) 2).getLsbD 0) ∧ (pos < 7 ∨ 10 ≤ pos)) :
    ∃ fr', frameWf fr' = true ∧ frameBytes fr' = (frameBytes fr).set pos b ∧
      (frameHeader fr').isV2 = (frameHeader fr).isV2 ∧ frameLen fr' = frameLen fr ∧
      (frameHeader fr').messageId = (frameHeader fr).messageId := by
  generalize hF : frameBytes fr = F at hv2 ⊢
  have hm : byteAt (F.set pos b) 0 = byteAt F 0 := byteAt_set_ne (by omega)
  have hlen : byteAt (F.set pos b) 1 = byteAt F 1 := byteAt_set_ne (by omega)
  obtain ⟨hmark, htotal, rfl⟩ | ⟨hmark, htotal, rfl⟩ := frame_of_bytes_iff.mp ⟨hwf, hF⟩
  · have hid : byteAt (F.set pos b) 5 = byteAt F 5 := byteAt_set_ne (hv1 rfl).symm
    have htotal' : (F.set pos b).length = totalV1 (F.set pos b) := by
      rw [List.length_set, htotal, totalV1, totalV1, hlen]
    obtain ⟨hwf', hbytes'⟩ := frame_of_bytes_iff.mpr (.inl ⟨hm.trans hmark, htotal', rfl⟩)
    exact ⟨_, hwf', hbytes', rfl, congrArg BitVec.toNat hlen, congrArg (BitVec.setWidth 24) hid⟩
  · obtain ⟨hbit, hout⟩ := hv2 rfl
    have hid : slice (F.set pos b) 7 10 = slice F 7 10 := slice_set_outside (by omega)
    have hsigned : signedV2 (F.set pos b) = signedV2 F := by
      rw [signedV2, signedV2]
      by_cases h2 : pos = 2
      · subst h2
        rw [byteAt_set_self (by rw [htotal]; exact lt_of_lt_of_le (by decide) (hlV2_le_totalV2 F)), hbit rfl]
      · rw [byteAt_set_ne (Ne.symm h2)]
    have htotal' : (F.set pos b).length = totalV2 (F.set pos b) := by
      rw [List.length_set, htotal, totalV2, totalV2, hlen, hsigned]
    obtain ⟨hwf', hbytes'⟩ := frame_of_bytes_iff.mpr (.inr ⟨hm.trans hmark, htotal', rfl⟩)
    exact ⟨_, hwf', hbytes', rfl, congrArg BitVec.toNat hlen, congrArg (fun B => BitVec.ofNat 24 (ule B)) hid⟩

theorem length_frameBytes_ge (hwf : frameWf fr = true) :
    (frameHead fr).length + frameLen fr + 2 ≤ (frameBytes fr).length := by
  rw [frameBytes_eq]
  simp [framePayload_length hwf]
  omega

/-- Two frames of one length whose bytes differ at one position: where the checksums agree or not. -/
theorem checksum_of_set {fr' : Frame} {seed : Byte} (hwf : frameWf fr = true) (hwf' : frameWf fr' = true)
    (hbytes : frameBytes fr' = (frameBytes fr).set pos b) (hhead : (frameHead fr').length = (frameHead fr).length)
    (hlen : frameLen fr' = frameLen fr) (hne : b ≠ byteAt (frameBytes fr) pos)
    (hcrc : frameChecksum fr seed = frameTx fr) :
    (1 ≤ pos → pos < (frameHead fr).length + frameLen fr + 2 → frameChecksum fr' seed ≠ frameTx fr') ∧
    ((frameHead fr).length + frameLen fr + 2 ≤ pos → frameChecksum fr' seed = frameTx fr') := by
  have hsize := length_frameBytes_ge hwf
  set e := (frameHead fr).length + frameLen fr with he
  have hcov := slice_coveredBytes hwf
  have hcov' := slice_coveredBytes hwf'
  rw [hhead, hlen, ← he, hbytes] at hcov'
  have htx := frameTx_toNat hwf
  have htx' := frameTx_toNat hwf'
  rw [hhead, hlen, ← he, hbytes] at htx'
  rw [← he] at hcov htx
  have hsame (hout : e ≤ pos) : frameChecksum fr' seed = frameChecksum fr seed := by
    rw [frameChecksum, frameChecksum, ← hcov', ← hcov, slice_set_outside (.inr hout)]
  refine ⟨fun h1 h2 => ?_, fun h => ?_⟩
  · rcases Nat.lt_or_ge pos e with hin | hout
    · have htxs : frameTx fr' = frameTx fr := by
        apply BitVec.eq_of_toNat_eq
        rw [htx, htx', byteAt_set_ne (by omega), byteAt_set_ne (by omega)]
      rw [htxs, ← hcrc]
      intro h
      have hall := mix_injective_left h
      rw [← hcov', ← hcov, slice_set_inside h1] at hall
      refine mixAll_set_ne (c := 0xFFFF#16) (by rw [slice_length]; omega) ?_ hall
      rw [byteAt_slice (by omega), Nat.add_sub_cancel' h1]
      exact hne
    · rw [hsame hout, hcrc]
      intro h
      have hval := congrArg BitVec.toNat h
      have hself : byteAt ((frameBytes fr).set pos b) pos = b := byteAt_set_self (by omega)
      have hbyte : b.toNat ≠ (byteAt (frameBytes fr) pos).toNat := fun hb => hne (BitVec.eq_of_toNat_eq hb)
      have hlow := (byteAt (frameBytes fr) e).isLt
      have hlow' := b.isLt
      obtain rfl | rfl : pos = e ∨ pos = e + 1 := by omega
      · rw [htx, htx', hself, byteAt_set_ne (by omega)] at hval
        omega
      · rw [htx, htx', hself, byteAt_set_ne (by omega)] at hval
        omega
  · rw [hsame (by omega), hcrc]
    apply BitVec.eq_of_toNat_eq
    rw [htx, htx', byteAt_set_ne (by omega), byteAt_set_ne (by omega)]

end

/-! ## A PARSE of one frame -/

theorem runCandidate_setRun (c : Candidate) (p : ParseRun) (r : Run) (s : State) :
    runCandidate c p (s.setRun r) = runCandidate c p s := by
  unfold runCandidate
  rw [State.setRun_registry]
  cases judge s.registry c <;> rfl

/-- The PARSE of exactly one frame on an instance without a residual: the frame, and then the end of the scan. -/
theorem exec_parse_frame {s : State} {fr : Frame} {q : ParseRun} (hidle : s.run = .idle) (hfault : s.fault = none)
    (hresid : s.resid = []) (hwf : frameWf fr = true)
    (hq : (runCandidate (candidateOf fr) ⟨frameBytes fr, (frameBytes fr).length, [], Config.crcInit⟩ s).run =
      .parse q) :
    exec (.parse (frameBytes fr)) s = .next (endParse [] q
      (runCandidate (candidateOf fr) ⟨frameBytes fr, (frameBytes fr).length, [], Config.crcInit⟩ s)) := by
  generalize hp : (⟨frameBytes fr, (frameBytes fr).length, [], Config.crcInit⟩ : ParseRun) = p at hq ⊢
  have hstart : startParse (frameBytes fr) s = ⟨frameBytes fr, 0, [], Config.crcInit⟩ := by
    rw [startParse, hresid, List.nil_append]
  have hdec : decodeFrame (⟨frameBytes fr, 0, [], Config.crcInit⟩ : ParseRun).rest =
      .ok (fr, (frameBytes fr).length) := by
    have h := decodeFrame_frameBytes_append hwf []
    rwa [List.append_nil] at h
  have hframe : parseMicro ⟨frameBytes fr, 0, [], Config.crcInit⟩ (s.setRun (.parse (startParse (frameBytes fr) s))) =
      runCandidate (candidateOf fr) p s := by
    rw [parseMicro, parseAction, hdec, ← hp]
    dsimp only
    rw [ParseRun.advance, Nat.zero_add, runCandidate_setRun]
  have hend : q.sc = q.w.length := by
    obtain ⟨d, hd⟩ | ⟨q', hw, hsc, hrun⟩ := runCandidate_cases (candidateOf fr) p s
    · rw [hd] at hq
      cases hq
    · have hq' : (runCandidate (candidateOf fr) p s).run = .parse q' := by
        obtain ⟨-, h⟩ | ⟨-, h | h⟩ | ⟨m, -, h⟩ := hrun <;> rw [h] <;> rfl
      obtain rfl := Run.parse.inj (hq.symm.trans hq')
      rw [hw, hsc, ← hp]
  have hends : ParsesTo (s.setRun (.parse (startParse (frameBytes fr) s)))
      (endParse [] q (runCandidate (candidateOf fr) p s)) := by
    have hlast : ParsesTo (runCandidate (candidateOf fr) p s) (endParse [] q (runCandidate (candidateOf fr) p s)) :=
      .micro hq (by rw [parseMicro_exhausted hend]; exact .done rfl)
    refine .micro (p := ⟨frameBytes fr, 0, [], Config.crcInit⟩) (by rw [hstart]; rfl) ?_
    rwa [hframe]
  rw [exec_parse _ hidle hfault, (parsesTo_parseAll _ s).eq hends]

/-- The PARSE of one frame with a wrong checksum. -/
theorem exec_parse_crcErr {s : State} {fr : Frame} {d : Descriptor} (hidle : s.run = .idle) (hfault : s.fault = none)
    (hresid : s.resid = []) (hwf : frameWf fr = true)
    (hd : lookupIn s.registry (frameHeader fr).messageId = some d) (hcrc : frameChecksum fr d.crcExtra ≠ frameTx fr) :
    exec (.parse (frameBytes fr)) s =
      .next { s with crcerr := s.crcerr + 1, rsp := s.rsp ++ [.messages []] } := by
  have hrun (p : ParseRun) := runCandidate_crc (p := p) hwf hd hcrc
  rw [exec_parse_frame hidle hfault hresid hwf (by rw [hrun]; rfl), hrun]
  cases s
  cases hidle
  cases hresid
  rfl

/-- The PARSE of one valid frame. -/
theorem exec_parse_valid {s : State} {fr : Frame} {d : Descriptor} {toks : List Token} (hidle : s.run = .idle)
    (hfault : s.fault = none) (hresid : s.resid = []) (hwf : frameWf fr = true)
    (hd : lookupIn s.registry (frameHeader fr).messageId = some d) (hcrc : frameChecksum fr d.crcExtra = frameTx fr)
    (hprog : program d.wireFormat d.fields = .ok toks) (hfits : programSize toks ≤ max (frameLen fr) d.maxPayloadLen)
    {m : Message} (hm : m = ⟨frameHeader fr,
      mappingAt toks d.fields (framePayload fr ++ zeros (d.maxPayloadLen - frameLen fr)), frameSig fr⟩) :
    exec (.parse (frameBytes fr)) s =
      .next { s with pkts := s.pkts + 1, msg := s.msg ++ [m], rsp := s.rsp ++ [.messages [m]] } := by
  have hrun (p : ParseRun) := runCandidate_message (p := p) hwf hd hcrc hprog hfits
  rw [exec_parse_frame hidle hfault hresid hwf (by rw [hrun]; rfl), hrun, ← hm]
  cases s
  cases hidle
  cases hresid
  rfl

/-- Settles O40: the changed frame is a frame of the same version, length and id, and its checksum agrees exactly where
the change is behind it. -/
theorem changedByteIsACrcError : Obligations.ChangedByteIsACrcError := by
  intro s fr d pos b hidle hfault hresid hwf hd hcrc hne
  have hhl := frameHead_length fr
  refine ⟨fun hpos => ?_, fun toks htok hlen hnodup hfits hv2 hafter hbefore => ?_⟩
  · have hv1 : (frameHeader fr).isV2 = false → pos ≠ 5 := fun h => by
      obtain ⟨-, hin⟩ | ⟨h', -⟩ := hpos
      · omega
      · rw [h] at h'; cases h'
    have hv2 : (frameHeader fr).isV2 = true →
        (pos = 2 → b.getLsbD 0 = (byteAt (frameBytes fr) 2).getLsbD 0) ∧ (pos < 7 ∨ 10 ≤ pos) := fun h => by
      obtain ⟨h', -⟩ | ⟨-, ⟨rfl, hbit⟩ | hin⟩ := hpos
      · rw [h] at h'; cases h'
      · exact ⟨fun _ => hbit, .inl (by decide)⟩
      · exact ⟨by omega, by omega⟩
    obtain ⟨fr', hwf', hbytes', hver', hlen', hid'⟩ := exists_frame_set hwf (by omega) hv1 hv2
    have hhead : (frameHead fr').length = (frameHead fr).length := by
      rw [frameHead_length, frameHead_length, hver']
    rw [← hbytes']
    refine exec_parse_crcErr hidle hfault hresid hwf' (by rwa [hid']) ?_
    refine (checksum_of_set hwf hwf' hbytes' hhead hlen' hne hcrc).1 (by omega) ?_
    obtain ⟨h, hin⟩ | ⟨h, hin⟩ := hpos
    · rw [if_neg (by simp [h])] at hhl
      omega
    · rw [if_pos h] at hhl
      omega
  · have hhl' : (frameHead fr).length = 10 := by rw [hhl, if_pos hv2]
    obtain ⟨fr', hwf', hbytes', hver', hlen', hid'⟩ := exists_frame_set (fr := fr) (pos := pos) (b := b) hwf (by omega)
      (fun h => by rw [hv2] at h; cases h) (fun _ => ⟨by omega, by omega⟩)
    have hhead : (frameHead fr').length = (frameHead fr).length := by
      rw [frameHead_length, frameHead_length, hver']
    rw [← hbytes']
    exact ⟨_, exec_parse_valid hidle hfault hresid hwf' (by rwa [hid'])
      ((checksum_of_set hwf hwf' hbytes' hhead hlen' hne hcrc).2 (by omega))
      (program_ok_iff.mpr ⟨htok, hlen, hnodup⟩) (by rwa [hlen']) rfl⟩

end Machine

end Sys2Proof
end

section
/-! ENCODE: where it refuses, how it lays out its frame (R230 to R241), and what PARSE reads back of it (R242). -/

namespace Sys2Proof

open Sys2Proof.Machine Sys2Proof.Safety

/-- A buffer cut where the rest of it is zero, and padded with zeros again (R228, R234). -/
theorem take_append_zeros {B : Bytes} {n : Nat} (hn : n ≤ B.length)
    (hzero : ∀ i, n ≤ i → i < B.length → byteAt B i = 0) : B.take n ++ zeros (B.length - n) = B := by
  have hlen : (B.take n).length = n := by rw [List.length_take, Nat.min_eq_left hn]
  apply List.ext_getElem
  · rw [List.length_append, hlen, zeros_length, Nat.add_sub_cancel' hn]
  · intro i hi hi'
    rcases Nat.lt_or_ge i n with hlt | hge
    · rw [List.getElem_append_left (by rw [hlen]; exact hlt), List.getElem_take]
    · have hi0 := hzero i hge hi'
      rw [byteAt, List.getD_eq_getElem _ _ hi'] at hi0
      rw [List.getElem_append_right (by rw [hlen]; exact hge), hi0]
      exact List.getElem_replicate _

namespace Machine

section

variable {s : State} {req : EncodeRequest} {d : Descriptor}

/-! ## The refusals -/

theorem encodable_ok_iff {registry : List Descriptor} :
    encodable registry req = .ok d ↔ lookupIn registry req.messageId = some d ∧ d.maxPayloadLen ≤ 255 ∧
      (req.isV2 = true ∨ req.messageId.toNat ≤ 255) := by
  rw [encodable]
  cases lookupIn registry req.messageId with
  | none => simp
  | some d' =>
    simp only [Option.some.injEq]
    by_cases hlen : d'.maxPayloadLen > Config.plenMax
    · rw [if_pos hlen]
      refine ⟨nofun, ?_⟩
      rintro ⟨rfl, hle, -⟩
      exact absurd hle (Nat.not_le.mpr hlen)
    · rw [if_neg hlen]
      by_cases hid : ¬ req.isV2 ∧ req.messageId.toNat > 255
      · rw [if_pos hid]
        refine ⟨nofun, ?_⟩
        rintro ⟨-, -, hv2 | hle⟩
        · exact absurd hv2 hid.1
        · exact absurd hle (Nat.not_le.mpr hid.2)
      · rw [if_neg hid, Except.ok.injEq]
        refine ⟨?_, fun h => h.1⟩
        rintro rfl
        refine ⟨rfl, Nat.not_lt.mp hlen, ?_⟩
        by_cases hv2 : req.isV2 = true
        · exact .inl hv2
        · exact .inr (Nat.not_lt.mp fun h => hid ⟨hv2, h⟩)

theorem encodable_eValue {registry : List Descriptor} (hd : lookupIn registry req.messageId = some d)
    (h : 255 < d.maxPayloadLen ∨ req.isV2 = false ∧ 255 < req.messageId.toNat) :
    encodable registry req = .error .eValue := by
  rw [encodable, hd]
  dsimp only
  split
  · rfl
  · refine if_pos ?_
    obtain hlen | ⟨hv1, hid⟩ := h
    · exact absurd hlen ‹_›
    · exact ⟨by simp [hv1], hid⟩

theorem exec_encode_refused (hidle : s.run = .idle) {e : ErrorCode} (h : encodable s.registry req = .error e) :
    exec (.encode req) s = .next { s with rsp := s.rsp ++ [.error e] } := by
  rw [exec_encode_error hidle (e := e) (by rw [encodeFrame, h]), State.respond_idle hidle]

/-- Settles O42: the refusals in the order of `encodable`, then the one error PACK has. -/
theorem encodeRefusals : Obligations.EncodeRefusals := by
  intro s req hidle
  refine ⟨fun hnone => exec_encode_refused hidle (by rw [encodable, hnone]), fun d hd => ⟨fun hlong => ?_,
    fun hv1 hid => ?_, fun hlen hid e hpack => ?_⟩⟩
  · exact exec_encode_refused hidle (encodable_eValue hd (.inl hlong))
  · exact exec_encode_refused hidle (encodable_eValue hd (.inr ⟨hv1, hid⟩))
  · have henc := encodable_ok_iff.mpr ⟨hd, hlen, hid⟩
    cases hp : pack req.payload d.wireFormat d.fields (zeros d.maxPayloadLen) 0 with
    | ok x =>
      rw [exec_pack_ok hidle hp, State.respond_idle hidle] at hpack
      simp at hpack
    | error e' =>
      rw [exec_pack_error hidle hp, State.respond_idle hidle] at hpack
      obtain rfl : e'.error = e := by simpa using hpack
      rw [exec_encode_error hidle (e := e'.error) (by rw [encodeFrame, henc]; dsimp only; rw [hp]),
        State.respond_idle hidle]

/-! ## The layout -/

theorem encodeFrame_ok {registry : List Descriptor} {scratch : Bytes} {cur : Nat}
    (henc : encodable registry req = .ok d)
    (hpack : pack req.payload d.wireFormat d.fields (zeros d.maxPayloadLen) 0 = .ok (scratch, cur)) :
    encodeFrame registry req = .ok (finishFrame req d scratch) := by
  rw [encodeFrame, henc]
  dsimp only
  rw [hpack]

theorem requestHeaderBytes_length (req : EncodeRequest) (len : Byte) :
    (requestHeaderBytes req len).length = if req.isV2 then 10 else 6 := by
  rw [requestHeaderBytes]
  split <;> simp

theorem requestFrame_length {seed : Byte} {P : Bytes} {n : Nat} (hP : P.length = n) :
    (requestFrame req seed P n).length = (if req.isV2 then 10 else 6) + n + 2 := by
  rw [requestFrame]
  simp [requestHeaderBytes_length, hP, Nat.add_assoc]

theorem withSigBlock_length (sg : Sign) (G : Bytes) : (withSigBlock sg G).length = G.length + 13 := by
  simp [withSigBlock, Tag.bytes]

/-- Settles O41: PACK into zeros, then `finishFrame` and the cut of `truncLen`. -/
theorem encodeLaysOutTheFrame : Obligations.EncodeLaysOutTheFrame := by
  intro s req d toks hidle hd hmax hid htok hlen hnodup hacc hfits
  obtain ⟨scratch, hpack, hlength, -⟩ := pack_unpack (program_ok_iff.mpr ⟨htok, hlen, hnodup⟩) hacc hfits
  obtain ⟨hle, hone, hzero, hlast⟩ := truncLen_truncatedTo scratch d.maxPayloadLen
  have henc := exec_encode_ok hidle (encodeFrame_ok (encodable_ok_iff.mpr ⟨hd, hmax, hid⟩) hpack)
  rw [State.respond_idle hidle] at henc
  have hP : (scratch.take (truncLen scratch d.maxPayloadLen)).length = truncLen scratch d.maxPayloadLen := by
    rw [List.length_take, Nat.min_eq_left (by omega)]
  refine ⟨scratch, truncLen scratch d.maxPayloadLen, ?_, hlength, hle, hone, hzero, hlast, fun hno => ⟨?_, ?_⟩,
    fun sg hv2 hsg => ⟨?_, ?_⟩⟩
  · rw [exec_pack_ok hidle hpack, State.respond_idle hidle]
  · rw [henc, finishFrame_unsigned hno]
    rfl
  · exact requestFrame_length hP
  · rw [henc, finishFrame_signed hv2 hsg]
    rfl
  · have hG := requestFrame_length (req := req) (seed := d.crcExtra) hP
    rw [if_pos hv2] at hG
    exact (withSigBlock_length sg _).trans (congrArg (· + 13) hG)

end

end Machine

end Sys2Proof
end

section
/-! What PARSE reads back of what ENCODE wrote (R242): the emitted bytes are those of a well-formed frame whose checksum
matches and whose padded payload is what PACK wrote. -/

namespace Sys2Proof.Machine

open Sys2Proof.Safety

/-! ## Where PACK completes -/

theorem packField_some {map : Mapping} {t : Token} {name : FieldName} {out out' : Bytes} {a : Nat}
    (h : packField (microP t.code) out a t.count (fieldValue map name) = some out') :
    ∀ v ∈ fieldValue map name, valueAccepted t v := by
  intro v hv
  by_contra href
  rw [hv, packField, microP_refused href] at h
  cases h

/-- A loop that completes accepted every value and found room for every field. -/
theorem packTokens_ok {map : Mapping} {ps : List (Token × FieldName)} {out out' : Bytes} {cur cur' : Nat}
    (hcur : cur ≤ out.length) (h : packTokens map ps out cur = .ok (out', cur')) :
    (∀ e ∈ ps, ∀ v ∈ fieldValue map e.2, valueAccepted e.1 v) ∧
      cur + programSize (ps.map Prod.fst) ≤ out.length := by
  induction ps generalizing out cur with
  | nil => exact ⟨nofun, hcur⟩
  | cons p ps ih =>
    obtain ⟨t, name⟩ := p
    rw [packTokens] at h
    split at h
    · cases h
    · have hfits : cur + t.size ≤ out.length := Nat.not_lt.mp ‹_›
      split at h
      · cases h
      · have hfield := ‹packField _ _ _ _ _ = some _›
        have hlength := (packField_writesWithin hfits hfield).1
        obtain ⟨hacc, hroom⟩ := ih (by rw [hlength]; exact hfits) h
        refine ⟨List.forall_mem_cons.mpr ⟨packField_some hfield, hacc⟩, ?_⟩
        rw [List.map_cons, programSize_cons]
        dsimp only
        omega

/-- PACK completes into zeros only where the round trip holds. -/
theorem pack_zeros_ok {map : Mapping} {fmt : Bytes} {names : List FieldName} {n cur : Nat} {toks : List Token}
    {scratch : Bytes} (htok : tokenize fmt = .ok toks) (h : pack map fmt names (zeros n) 0 = .ok (scratch, cur)) :
    program fmt names = .ok toks ∧ programSize toks ≤ n ∧ scratch.length = n ∧
      unpack scratch fmt names = .ok (canonicalMapping map toks names) := by
  cases hprog : program fmt names with
  | error e => rw [pack_defect hprog] at h; cases h
  | ok toks' =>
    obtain ⟨htok', hlen, -⟩ := program_ok_iff.mp hprog
    obtain rfl : toks = toks' := Except.ok.inj (htok.symm.trans htok')
    have hloop := h
    rw [pack_program hprog] at hloop
    obtain ⟨hacc, hroom⟩ := packTokens_ok (Nat.zero_le _) hloop
    rw [List.map_fst_zip hlen.le, Nat.zero_add, zeros_length] at hroom
    obtain ⟨out, hpack, hlength, hunpack⟩ := pack_unpack hprog hacc hroom
    rw [hpack] at h
    cases h
    exact ⟨rfl, hroom, hlength, hunpack⟩

/-! ## The frame of a request -/

/-- The checksum of the frame of a request with payload `P` (R238). -/
def requestCrc (req : EncodeRequest) (seed : Byte) (P : Bytes) : Crc :=
  mix (((requestHeaderBytes req (BitVec.ofNat 8 P.length)).tail ++ P).foldl mix 0xFFFF#16) seed

/-- The frame ENCODE makes of a request and a payload, in fields. -/
def encodedFrame (req : EncodeRequest) (seed : Byte) (P : Bytes) (sig : Option SigBlock) : Frame :=
  if req.isV2 then
    .v2 ⟨BitVec.ofNat 8 P.length, emittedIncompat req, req.compatFlags, req.sequence, req.systemId, req.componentId,
      req.messageId, P, requestCrc req seed P, sig⟩
  else
    .v1 ⟨BitVec.ofNat 8 P.length, req.sequence, req.systemId, req.componentId, req.messageId.setWidth 8, P,
      requestCrc req seed P⟩

section

variable {req : EncodeRequest} {seed : Byte} {P : Bytes} {sig : Option SigBlock}

theorem encodedFrame_head :
    frameHead (encodedFrame req seed P sig) = requestHeaderBytes req (BitVec.ofNat 8 P.length) := by
  rw [encodedFrame, requestHeaderBytes]
  cases hv : req.isV2 with
  | false => simp [frameHead, headerBytesV1, Config.markV1]
  | true => simp [frameHead, headerBytesV2, Config.markV2, emittedIncompat, signing, hv]

theorem encodedFrame_payload : framePayload (encodedFrame req seed P sig) = P := by
  rw [encodedFrame]
  split <;> rfl

theorem encodedFrame_tx : frameTx (encodedFrame req seed P sig) = requestCrc req seed P := by
  rw [encodedFrame]
  split <;> rfl

theorem encodedFrame_sig (h : req.isV2 = false → sig = none) : frameSig (encodedFrame req seed P sig) = sig := by
  rw [encodedFrame]
  split
  · rfl
  · exact (h (by simpa using ‹¬ req.isV2 = true›)).symm

theorem encodedFrame_header (h : req.isV2 = true ∨ req.messageId.toNat ≤ 255) :
    frameHeader (encodedFrame req seed P sig) = requestHeader req (BitVec.ofNat 8 P.length) := by
  rw [encodedFrame, requestHeader]
  cases hv : req.isV2 with
  | true => simp [frameHeader, emittedIncompat, signing, hv]
  | false =>
    have hid : (req.messageId.setWidth 8).setWidth 24 = req.messageId := by
      have hle := h.resolve_left (by simp [hv])
      apply BitVec.eq_of_toNat_eq
      rw [BitVec.toNat_setWidth, BitVec.toNat_setWidth]
      omega
    simp [frameHeader, hid]

theorem encodedFrame_checksum :
    frameChecksum (encodedFrame req seed P sig) seed = frameTx (encodedFrame req seed P sig) := by
  rw [frameChecksum, coveredBytes_eq, encodedFrame_head, encodedFrame_payload, encodedFrame_tx, requestCrc]

theorem frameBytes_encodedFrame (h : req.isV2 = false → sig = none) :
    frameBytes (encodedFrame req seed P sig) = requestFrame req seed P P.length ++ sig.elim [] SigBlock.bytes := by
  rw [frameBytes_eq, encodedFrame_head, encodedFrame_payload, encodedFrame_tx, frameTail, encodedFrame_sig h]
  rfl

/-- Bit 0 of the emitted `incompat` byte says whether a signature block follows (R240). -/
theorem emittedIncompat_bit (req : EncodeRequest) : (emittedIncompat req).getLsbD 0 = (signing req).isSome := by
  rw [emittedIncompat]
  cases (signing req).isSome <;> simp

theorem encodedFrame_wf (hP : P.length ≤ 255) (h : sig.isSome = (signing req).isSome) :
    frameWf (encodedFrame req seed P sig) = true := by
  have hlen : P.length = (BitVec.ofNat 8 P.length).toNat := by
    rw [BitVec.toNat_ofNat]
    omega
  rw [encodedFrame]
  split
  · exact FrameV2.wf_iff.mpr ⟨hlen, h.trans (emittedIncompat_bit req).symm⟩
  · exact FrameV1.wf_iff.mpr hlen

theorem requestSig_isSome (req : EncodeRequest) (G : Bytes) : (requestSig req G).isSome = (signing req).isSome := by
  rw [requestSig, signing]
  split <;> simp

theorem requestSig_v1 (hv1 : req.isV2 = false) (G : Bytes) : requestSig req G = none := by
  rw [requestSig, hv1]
  rfl

theorem take_append_tag (A : Bytes) (t : Tag) : (A ++ t.bytes).take ((A ++ t.bytes).length - 6) = A := by
  rw [List.length_append]
  exact List.take_left

/-- The signature record of a signed frame is that of the block at its end. -/
theorem withSigBlock_eq {sg : Sign} (hv2 : req.isV2 = true) (hsg : req.sign = some sg) (G : Bytes) :
    withSigBlock sg G = G ++ (requestSig req (withSigBlock sg G)).elim [] SigBlock.bytes := by
  rw [requestSig, if_pos hv2, hsg, withSigBlock]
  dsimp only [Option.map_some, Option.elim_some]
  rw [take_append_tag, SigBlock.bytes]
  simp

/-- What ENCODE answers is a frame (R236 to R240). -/
theorem finishFrame_eq_frameBytes {d : Descriptor} {scratch : Bytes}
    (hP : P = scratch.take (truncLen scratch d.maxPayloadLen)) (hlength : scratch.length = d.maxPayloadLen) :
    finishFrame req d scratch =
      frameBytes (encodedFrame req d.crcExtra P (requestSig req (finishFrame req d scratch))) := by
  have hlen : P.length = truncLen scratch d.maxPayloadLen := by
    rw [hP, List.length_take, hlength, Nat.min_eq_left (truncLen_truncatedTo scratch d.maxPayloadLen).1]
  rw [frameBytes_encodedFrame fun hv1 => requestSig_v1 hv1 _, hlen]
  by_cases hno : req.isV2 = false ∨ req.sign = none
  · have hsig : requestSig req (finishFrame req d scratch) = none := by
      rw [requestSig]
      obtain h | h := hno <;> simp [h]
    rw [hsig, finishFrame_unsigned hno, hP]
    exact (List.append_nil _).symm
  · obtain ⟨hv2, sg, hsg⟩ : req.isV2 = true ∧ ∃ sg, req.sign = some sg := by
      simpa [Option.ne_none_iff_exists'] using hno
    rw [finishFrame_signed hv2 hsg, hP]
    exact withSigBlock_eq hv2 hsg _

end

/-- The frames ENCODE answers, and what it took. -/
theorem encodeFrame_eq_ok {registry : List Descriptor} {req : EncodeRequest} {G : Bytes}
    (h : encodeFrame registry req = .ok G) :
    ∃ d scratch cur, encodable registry req = .ok d ∧
      pack req.payload d.wireFormat d.fields (zeros d.maxPayloadLen) 0 = .ok (scratch, cur) ∧
      G = finishFrame req d scratch := by
  cases henc : encodable registry req with
  | error e =>
    rw [encodeFrame, henc] at h
    cases h
  | ok d =>
    cases hpack : pack req.payload d.wireFormat d.fields (zeros d.maxPayloadLen) 0 with
    | error e =>
      rw [encodeFrame, henc] at h
      dsimp only at h
      rw [hpack] at h
      cases h
    | ok x =>
      rw [encodeFrame_ok henc hpack] at h
      exact ⟨d, x.1, x.2, rfl, hpack, (Except.ok.inj h).symm⟩

theorem encodeFrame_of_exec {s : State} {req : EncodeRequest} {G : Bytes} (hidle : s.run = .idle)
    (h : exec (.encode req) s = .next { s with rsp := s.rsp ++ [.frame G] }) : encodeFrame s.registry req = .ok G := by
  cases he : encodeFrame s.registry req with
  | ok G' =>
    rw [exec_encode_ok hidle he, State.respond_idle hidle] at h
    simpa using h
  | error e =>
    rw [exec_encode_error hidle he, State.respond_idle hidle] at h
    simp at h

/-- Settles O43: the emitted bytes are a valid frame, and its padded payload is the scratch buffer. -/
theorem encodeParseRoundTrip : Obligations.EncodeParseRoundTrip := by
  intro s u req d toks G hidle hexec hd htok huidle hufault huresid hreg m
  obtain ⟨d', scratch, cur, henc, hpack, hG⟩ := encodeFrame_eq_ok (encodeFrame_of_exec hidle hexec)
  obtain ⟨hd', hmax, hid⟩ := encodable_ok_iff.mp henc
  obtain rfl : d = d' := Option.some.inj (hd.symm.trans hd')
  obtain ⟨hprog, hfits, hlength, hunpack⟩ := pack_zeros_ok htok hpack
  obtain ⟨hle, -, hzero, -⟩ := truncLen_truncatedTo scratch d.maxPayloadLen
  obtain ⟨P, hP⟩ : ∃ P, P = scratch.take (truncLen scratch d.maxPayloadLen) := ⟨_, rfl⟩
  have hPlen : P.length = truncLen scratch d.maxPayloadLen := by rw [hP, List.length_take, hlength, Nat.min_eq_left hle]
  have hbytes : G = frameBytes (encodedFrame req d.crcExtra P (requestSig req G)) := by
    rw [hG]
    exact finishFrame_eq_frameBytes hP hlength
  set fr := encodedFrame req d.crcExtra P (requestSig req G) with hfr
  have hwf : frameWf fr = true := encodedFrame_wf (by omega) (requestSig_isSome req G)
  have hheader : frameHeader fr = requestHeader req (BitVec.ofNat 8 P.length) := encodedFrame_header hid
  have hlen1 : byteAt G 1 = BitVec.ofNat 8 P.length := by
    rw [hbytes, frameBytes_eq, encodedFrame_head, requestHeaderBytes]
    split <;> rfl
  have hframeLen : frameLen fr = P.length := by
    rw [← framePayload_length hwf, hfr, encodedFrame_payload]
  have hpadded : P ++ zeros (d.maxPayloadLen - P.length) = scratch := by
    rw [hPlen, hP, ← hlength]
    exact take_append_zeros (hlength ▸ hle) (hlength ▸ hzero)
  have hmapping : canonicalMapping req.payload toks d.fields = mappingAt toks d.fields scratch :=
    Except.ok.inj (hunpack.symm.trans (unpack_mappingAt hprog (hlength ▸ hfits)))
  rw [hbytes]
  refine exec_parse_valid huidle hufault huresid hwf ?_ encodedFrame_checksum hprog
    (hfits.trans (Nat.le_max_right _ _)) ?_
  · rw [hreg, hheader]
    exact hd
  · rw [hframeLen, hfr, encodedFrame_payload, hpadded, ← hmapping, encodedFrame_sig fun hv1 => requestSig_v1 hv1 G,
      ← hfr, hheader, ← hlen1]

end Sys2Proof.Machine
end
